-- ==== Sys2Proof/Word.lean ====
section
/-! DEFINITION. The values the block works on (spec/00_scope.md R6): bytes, 16-bit words and byte sequences.
No value of this block is signed. -/

namespace Sys2Proof

/-- An unsigned 8-bit value, 0 to 255 (R6). -/
abbrev Byte := BitVec 8

/-- An unsigned 16-bit value (R6 `word16`). -/
abbrev Word16 := BitVec 16

/-- A finite sequence of bytes, possibly empty, byte 0 first (R6, R41). -/
abbrev Bytes := List Byte

end Sys2Proof
end

