-- ==== Sys2Proof/Config.lean ====
section
/-! DEFINITION. The block's fixed constants (spec/00_scope.md R4, spec/10_state.md R30) and the field vocabulary of
spec/30_encoding.md R65 to R67. None of them is state, and no command can change one (R26). The spec leaves no value of the
block open, so there is no opaque constant here: the host's open parameters T_DEADLINE and T_BYTE (R5) are the argument
HostTiming of the host's read-frame call in Machine/HostProgram.lean. -/

namespace Sys2Proof.Config

/-- `SIG`, the signature byte that opens every frame. -/
def sig : Byte := 0xAA

/-- `HDR_LEN`: version, flags, src, dst, opcode, payload length. -/
def hdrLen : Nat := 6

/-- `CRC_LEN`: the two checksum bytes. -/
def crcLen : Nat := 2

/-- `LEN_OVERHEAD`: what the length byte counts beside the payload. -/
def lenOverhead : Nat := hdrLen + crcLen

/-- `MIN_FRAME`: the frame with an empty payload. -/
def minFrame : Nat := 10

/-- `MAX_PAYLOAD`: 255 less the overhead (conflict C1 decides against the source's 255). -/
def maxPayload : Nat := 247

/-- `MAX_FRAME`: 2 + 255 (conflict C1 decides against the source's 265). -/
def maxFrame : Nat := 257

/-- `CRC_INIT`. -/
def crcInit : Word16 := 0xFFFF

/-- `CRC_POLY`, the reflected form of 0x8005. -/
def crcPoly : Word16 := 0xA001

/-- `RX_CAP`: the receive buffer never holds more (R175). -/
def rxCap : Nat := 257

/-! ### Field vocabulary: values the block carries and never interprets (R68) -/

def addrHost : Byte := 0x01
def addrLinkBoot : Byte := 0x10
def addrLinkSwitch : Byte := 0x11
def addrDrone : Byte := 0x20
def addrBroadcast : Byte := 0xFF

def flagAck : Byte := 0x01
def flagError : Byte := 0x02
def flagStream : Byte := 0x03
def flagFragment : Byte := 0x04
def flagData : Byte := 0x05

def opPing : Byte := 0x01
def opPairStatus : Byte := 0x10
def opPairStart : Byte := 0x11
def opLinkGetParams : Byte := 0x20
def opLinkSetParams : Byte := 0x21
def opDroneGetParams : Byte := 0x30
def opDroneSetParams : Byte := 0x31
def opDroneSetState : Byte := 0x32
def opDroneCommand : Byte := 0x33
def opTelemetry : Byte := 0x40

end Sys2Proof.Config
end

