-- ==== Sys2Proof/Syntax.lean ====
section
/-! DEFINITION. The abstract syntax of the block's commands: one constructor per row of spec/opcode_table.json, with the
operands spec/30_encoding.md R82 gives it, in the order it gives them. -/

namespace Sys2Proof

/-- A legal command with its operands. Each byte operand is typed as a byte, so a field value outside 0 to 255 cannot be
written (R82, R127). A byte sequence has any finite length (R40). -/
inductive Instr where
  /-- CRC_INIT (R104) -/
  | crcInit
  /-- CRC_FEED b (R105) -/
  | crcFeed (b : Byte)
  /-- CRC_READ (R106) -/
  | crcRead
  /-- CRC_COMPUTE data (R107) -/
  | crcCompute (data : Bytes)
  /-- FRAME_BUILD version, flags, src, dst, opcode, payload (R120) -/
  | frameBuild (version flags src dst opcode : Byte) (payload : Bytes)
  /-- FRAME_PARSE cand (R140) -/
  | frameParse (cand : Bytes)
  /-- RX_BEGIN (R171) -/
  | rxBegin
  /-- RX_BYTE b (R172) -/
  | rxByte (b : Byte)
  /-- RX_IDLE (R182) -/
  | rxIdle
  /-- RX_TIMEOUT (R184) -/
  | rxTimeout
deriving DecidableEq, Repr

end Sys2Proof
end

