-- ==== Sys2Proof/Syntax/Command.lean ====
section
/-! DEFINITION. A command as the host delivers it (spec/30_encoding.md R80): a code byte and a tuple of typed values. It may be
illegal or of the wrong shape; Decode.lean says which. -/

namespace Sys2Proof

/-- The type of one operand (R82). -/
inductive OperandKind where
  | byte
  | bytes
deriving DecidableEq, Repr

/-- One operand value, travelling with the command: the block reads no memory to fetch it (R80). -/
inductive Operand where
  | byte (b : Byte)
  | bytes (s : Bytes)
deriving DecidableEq, Repr

/-- A command as delivered: `(code, operands)` (R80). -/
structure Command where
  code : Byte
  operands : List Operand
deriving DecidableEq, Repr

/-- What the host can do to the block: issue a command (R8), or drive the reset input between two commands (R230). -/
inductive HostEvent where
  | command (c : Command)
  | reset
deriving DecidableEq, Repr

/-- The ten rows of the command map (R81). -/
inductive Mnemonic where
  | crcInit
  | crcFeed
  | crcRead
  | crcCompute
  | frameBuild
  | frameParse
  | rxBegin
  | rxByte
  | rxIdle
  | rxTimeout
deriving DecidableEq, Repr

end Sys2Proof
end

