-- ==== Sys2Proof/WellFormed.lean ====
section
/-! DEFINITION. Well-formedness: the operands fit the code's shape (spec/30_encoding.md R82, R84). The operand types leave
nothing else to check: every byte is in range and a sequence may have any length. -/

namespace Sys2Proof

/-- The kind of an operand. -/
def Operand.kind : Operand → OperandKind
  | .byte _ => .byte
  | .bytes _ => .bytes

/-- The operand shapes (R82, column "operands"). -/
def Mnemonic.shape : Mnemonic → List OperandKind
  | .crcInit => []
  | .crcFeed => [.byte]
  | .crcRead => []
  | .crcCompute => [.bytes]
  | .frameBuild => [.byte, .byte, .byte, .byte, .byte, .bytes]
  | .frameParse => [.bytes]
  | .rxBegin => []
  | .rxByte => [.byte]
  | .rxIdle => []
  | .rxTimeout => []

/-- The operands fit the shape: none missing, none extra, none of the wrong type (R84). -/
def operandsFit (m : Mnemonic) (ops : List Operand) : Bool :=
  ops.map Operand.kind == m.shape

/-- The row of the command map an instruction belongs to. -/
def Instr.mnemonic : Instr → Mnemonic
  | .crcInit => .crcInit
  | .crcFeed _ => .crcFeed
  | .crcRead => .crcRead
  | .crcCompute _ => .crcCompute
  | .frameBuild _ _ _ _ _ _ => .frameBuild
  | .frameParse _ => .frameParse
  | .rxBegin => .rxBegin
  | .rxByte _ => .rxByte
  | .rxIdle => .rxIdle
  | .rxTimeout => .rxTimeout

/-- An instruction's operands, in the order of R82. -/
def Instr.operands : Instr → List Operand
  | .crcInit => []
  | .crcFeed b => [.byte b]
  | .crcRead => []
  | .crcCompute data => [.bytes data]
  | .frameBuild version flags src dst opcode payload =>
      [.byte version, .byte flags, .byte src, .byte dst, .byte opcode, .bytes payload]
  | .frameParse cand => [.bytes cand]
  | .rxBegin => []
  | .rxByte b => [.byte b]
  | .rxIdle => []
  | .rxTimeout => []

/-- An instruction is well-formed when its operands fit its row's shape. The types of `Instr` make every instruction so; the
check has teeth for a command as delivered (`operandsFit`). -/
def Instr.wellFormed (i : Instr) : Bool :=
  operandsFit i.mnemonic i.operands

end Sys2Proof
end

