-- ==== Sys2Proof/Decode.lean ====
section
/-! DEFINITION. Decoding a delivered command, and encoding one, from ONE table of codes (spec/30_encoding.md R80 to R84,
spec/opcode_table.json: mask 0xFF in every row). The code byte alone selects the command, before any operand is looked at
(R84, R203). -/

namespace Sys2Proof

/-- The command map (R81). -/
def Mnemonic.code : Mnemonic → Byte
  | .crcInit => 0x01
  | .crcFeed => 0x02
  | .crcRead => 0x03
  | .crcCompute => 0x04
  | .frameBuild => 0x10
  | .frameParse => 0x20
  | .rxBegin => 0x30
  | .rxByte => 0x31
  | .rxIdle => 0x32
  | .rxTimeout => 0x33

/-- The mnemonic's text, as the command map spells it (R81). -/
def Mnemonic.text : Mnemonic → String
  | .crcInit => "CRC_INIT"
  | .crcFeed => "CRC_FEED"
  | .crcRead => "CRC_READ"
  | .crcCompute => "CRC_COMPUTE"
  | .frameBuild => "FRAME_BUILD"
  | .frameParse => "FRAME_PARSE"
  | .rxBegin => "RX_BEGIN"
  | .rxByte => "RX_BYTE"
  | .rxIdle => "RX_IDLE"
  | .rxTimeout => "RX_TIMEOUT"

/-- The rows of the command map, in its order. -/
def commandMap : List Mnemonic :=
  [.crcInit, .crcFeed, .crcRead, .crcCompute, .frameBuild, .frameParse, .rxBegin, .rxByte, .rxIdle, .rxTimeout]

/-- The row a code byte selects; none for an illegal code (R83). -/
def mnemonicOf (code : Byte) : Option Mnemonic :=
  commandMap.find? fun m => m.code == code

/-- The instruction a row and its operands make; none where the operands do not fit the row's shape (R82, R84). Every operand
value is used as given: nothing is extended, scaled or shifted (R85). -/
def instrOf : Mnemonic → List Operand → Option Instr
  | .crcInit, [] => some .crcInit
  | .crcFeed, [.byte b] => some (.crcFeed b)
  | .crcRead, [] => some .crcRead
  | .crcCompute, [.bytes data] => some (.crcCompute data)
  | .frameBuild, [.byte version, .byte flags, .byte src, .byte dst, .byte opcode, .bytes payload] =>
      some (.frameBuild version flags src dst opcode payload)
  | .frameParse, [.bytes cand] => some (.frameParse cand)
  | .rxBegin, [] => some .rxBegin
  | .rxByte, [.byte b] => some (.rxByte b)
  | .rxIdle, [] => some .rxIdle
  | .rxTimeout, [] => some .rxTimeout
  | _, _ => none

/-- What the decoder answers for a delivered command. -/
inductive Decoded where
  /-- a legal code with operands of its shape -/
  | legal (i : Instr)
  /-- a code that is in no row of the command map (R83) -/
  | illegalCode (code : Byte)
  /-- a legal code with operands that do not fit its shape: the interface refuses the command (R84) -/
  | malformed (m : Mnemonic)
deriving DecidableEq, Repr

/-- Decoding is total: every delivered command is legal, of an illegal code, or malformed (R80, R83, R84). -/
def decode (c : Command) : Decoded :=
  match mnemonicOf c.code with
  | none => .illegalCode c.code
  | some m =>
    match instrOf m c.operands with
    | some i => .legal i
    | none => .malformed m

/-- The command that delivers an instruction, from the same table (R81, R82). -/
def encode (i : Instr) : Command :=
  ⟨i.mnemonic.code, i.operands⟩

/-- The operands of a shape whose every operand bit is zero: the byte 0x00, the empty sequence (log entry 5). -/
def zeroOperands (shape : List OperandKind) : List Operand :=
  shape.map fun
    | .byte => .byte 0
    | .bytes => .bytes []

/-- The command an opcode-table word stands for. The table numbers the eight bits of the code byte and gives the operands no
bits, so they are zero (log entry 5). A word of another width is in no row of the table. -/
def tableCommand (nbits w : Nat) : Option Command :=
  if nbits = 8 then
    let code : Byte := BitVec.ofNat 8 w
    some ⟨code, zeroOperands (((mnemonicOf code).map Mnemonic.shape).getD [])⟩
  else none

/-- The instruction the decoder reads from an opcode-table word. -/
def decodeTableWord (nbits w : Nat) : Option Instr :=
  match (tableCommand nbits w).map decode with
  | some (.legal i) => some i
  | _ => none

end Sys2Proof
end

