-- ==== Sys2Proof/Machine/State.lean ====
section
/-! DEFINITION. The machine's state (spec/10_state.md R20 to R22), the responses of its commands (spec/60_exceptions.md R200,
R201), and the reasons a step can stop. -/

namespace Sys2Proof.Machine

/-- The statuses (R201). None of them stops the machine: every error is a returned value (R200, R207). -/
inductive Status where
  | ok
  | frameTooShort
  | badSignature
  | lengthMismatch
  | checksumMismatch
  | payloadLengthMismatch
  | payloadTooLarge
  | pending
  | frameReady
  | noFrame
  | illegalCommand
deriving DecidableEq, Repr

/-- The record a successful FRAME_PARSE returns (R150). -/
structure ParsedFrame where
  version : Byte
  flags : Byte
  src : Byte
  dst : Byte
  opcode : Byte
  payloadLen : Byte
  payload : Bytes
deriving DecidableEq, Repr

/-- The results a response can carry (R82, column "result on success"). -/
inductive Result where
  /-- CRC_READ and CRC_COMPUTE -/
  | value (w : Word16)
  /-- FRAME_BUILD -/
  | frame (f : Bytes)
  /-- FRAME_PARSE -/
  | parsed (pf : ParsedFrame)
  /-- RX_BYTE with status FRAME_READY -/
  | candidate (cand : Bytes)
deriving DecidableEq, Repr

/-- A response `(status, result)` (R80, R200). -/
structure Response where
  status : Status
  result : Option Result
deriving DecidableEq, Repr

/-- The state: the block's two pieces of state, and the two ends of the command interface (log entries 1 and 2). -/
structure State where
  /-- the 16-bit CRC register (R21) -/
  crc : Word16
  /-- the receive framer's accumulation buffer, oldest byte first (R22) -/
  rxBuf : Bytes
  /-- MODEL'S OWN: the events the host still has to issue, next one first (R8, R24; log entry 1) -/
  hostQueue : List HostEvent
  /-- MODEL'S OWN: the response of the last transaction; no command reads it (R80, R200; log entry 2) -/
  response : Option Response
deriving DecidableEq, Repr

/-- The block has no fault: "No command traps, aborts, hangs or returns without a status" (R200; R207). Nobody raises one. -/
inductive Fault where
deriving DecidableEq, Repr

/-- Why a step gives no next state. -/
inductive Refusal where
  /-- Raised by `exec` for an instruction without a meaning yet (none is left). Safe. -/
  | notModelled (mnemonic : String)
  /-- Raised by `step` when the host's next command has a legal code and operands that do not fit its shape: "the interface
  refuses it" (R84, decision D3; log entry 4). No instruction's meaning raises it. Safe. -/
  | malformedOperands (m : Mnemonic)
deriving DecidableEq, Repr

/-- The state right after reset (R31, R230): CRC_INIT in `crc`, an empty `rx_buf`; nothing queued by the host and no response
(log entries 1 and 2). -/
def State.reset : State where
  crc := Config.crcInit
  rxBuf := []
  hostQueue := []
  response := none

end Sys2Proof.Machine
end

