-- ==== Sys2Proof/Machine/Operands.lean ====
section
/-! DEFINITION. The forms in which the commands use their operands (spec/00_scope.md R6): bytes of a sequence by position,
half-open slices, and the one value that is assembled from and split into bytes (spec/20_memory.md R42, R44, R85). -/

namespace Sys2Proof.Machine

/-- `s[i]`, byte i of a sequence, from 0 (R6). Every use stands behind a check that i is in range (log entry 12). -/
def byteAt (s : Bytes) (i : Nat) : Byte := s.getD i 0

/-- `s[i..j)`, the half-open slice, empty when j is at most i (R6). -/
def slice (s : Bytes) (i j : Nat) : Bytes := (s.drop i).take (j - i)

/-- `zext_16(b)` (R6). -/
def zext16 (b : Byte) : Word16 := b.setWidth 16

/-- `lo8(w)` (R6). -/
def lo8 (w : Word16) : Byte := w.setWidth 8

/-- `hi8(w)` (R6). -/
def hi8 (w : Word16) : Byte := (w >>> 8).setWidth 8

/-- A word16 as two bytes, low byte first (R42, R44). -/
def wordBytes (w : Word16) : Bytes := [lo8 w, hi8 w]

/-- A word16 from two bytes, the low one first: `zext_16(lo) | (zext_16(hi) << 8)` (R42, R85). -/
def wordOfBytes (lo hi : Byte) : Word16 := zext16 lo ||| (zext16 hi <<< 8)

/-- A length that fits one byte, as that byte. Its uses are behind the bound that makes it fit (R120, R125). -/
def lenByte (n : Nat) : Byte := BitVec.ofNat 8 n

end Sys2Proof.Machine
end

