-- ==== Sys2Proof/Machine/Ops.lean ====
section
/-! DEFINITION. The named operations over the state: the one place that reads and writes each of its parts. -/

namespace Sys2Proof.Machine

/-- `crc` read (R21): the plain register, no final exclusive-or (R101). -/
def readCrc (s : State) : Word16 := s.crc

/-- `crc <- v` (R6, R21). -/
def writeCrc (v : Word16) (s : State) : State := { s with crc := v }

/-- `rx_buf` read (R22). -/
def readRxBuf (s : State) : Bytes := s.rxBuf

/-- `rx_buf <- b` (R6, R22). -/
def writeRxBuf (b : Bytes) (s : State) : State := { s with rxBuf := b }

/-- `return (status, result)`: the command ends with exactly one response (R6, R200). -/
def respond (st : Status) (r : Option Result) (s : State) : State := { s with response := some ⟨st, r⟩ }

/-- A command's end: the machine goes on with its response in place. -/
def complete (st : Status) (r : Option Result) (s : State) : Host.Outcome State Fault Refusal :=
  .next (respond st r s)

/-- A command with an illegal code: ILLEGAL_COMMAND, no result, no state change, operands ignored (R83, R205). -/
def takeIllegalCommand (s : State) : Host.Outcome State Fault Refusal :=
  complete .illegalCommand none s

/-- The reset input (R230): `crc` and `rx_buf` take their reset values and no response is returned. What the host still has
queued is the host's and stays (log entry 7). -/
def takeReset (s : State) : State :=
  { writeRxBuf [] (writeCrc Config.crcInit s) with response := none }

/-- The host's queue with its head taken: the event is under way. -/
def setQueue (q : List HostEvent) (s : State) : State := { s with hostQueue := q }

/-- The host will issue this event next, before what it has queued (log entry 1). -/
def placeEvent (e : HostEvent) (s : State) : State := setQueue (e :: s.hostQueue) s

/-- The host will issue next the command an opcode-table word stands for; nothing changes for a word of no row. -/
def placeTableWord (nbits w : Nat) (s : State) : State :=
  match tableCommand nbits w with
  | some c => placeEvent (.command c) s
  | none => s

end Sys2Proof.Machine
end

