-- ==== Sys2Proof/Machine/Crc.lean ====
section
/-! DEFINITION. The CRC unit (spec/40_crc.md): the CRC16 function and the four commands that expose it. -/

namespace Sys2Proof.Machine

/-- One right shift with the feedback 0xA001 when the bit shifted out is 1 (R100). -/
def crcShift (c : Word16) : Word16 :=
  if c.getLsbD 0 then (c >>> 1) ^^^ Config.crcPoly else c >>> 1

/-- k right shifts. -/
def crcShifts : Nat → Word16 → Word16
  | 0, c => c
  | k + 1, c => crcShifts k (crcShift c)

/-- `crc_step(c, b)`: the byte enters bits 7..0, then eight right shifts (R100, R43). -/
def crcStep (c : Word16) (b : Byte) : Word16 :=
  crcShifts 8 (c ^^^ zext16 b)

/-- The register after the bytes of s, from c. -/
def crcFrom (c : Word16) (s : Bytes) : Word16 := s.foldl crcStep c

/-- `CRC16(s)`: from 0xFFFF; the register as it stands at the end (R101). -/
def crc16 (s : Bytes) : Word16 := crcFrom Config.crcInit s

/-- CRC_INIT (R104). -/
def execCrcInit (s : State) : Host.Outcome State Fault Refusal :=
  complete .ok none (writeCrc Config.crcInit s)

/-- CRC_FEED b (R105). -/
def execCrcFeed (b : Byte) (s : State) : Host.Outcome State Fault Refusal :=
  complete .ok none (writeCrc (crcStep (readCrc s) b) s)

/-- CRC_READ: the register, which the read leaves as it is (R106). -/
def execCrcRead (s : State) : Host.Outcome State Fault Refusal :=
  complete .ok (some (.value (readCrc s))) s

/-- CRC_COMPUTE data: a private computation, whatever `crc` holds (R107). -/
def execCrcCompute (data : Bytes) (s : State) : Host.Outcome State Fault Refusal :=
  complete .ok (some (.value (crc16 data))) s

end Sys2Proof.Machine
end

