-- ==== Sys2Proof/Machine/Flags.lean ====
section
/-! DEFINITION. The block has no condition flags (spec/10_state.md R25); the status of a command's response is what takes their
place. Its one-byte codes and which of them are failures (spec/60_exceptions.md R201, R202). -/

namespace Sys2Proof.Machine

/-- The status codes (R201, column "code"). -/
def Status.code : Status → Byte
  | .ok => 0x00
  | .frameTooShort => 0x01
  | .badSignature => 0x02
  | .lengthMismatch => 0x03
  | .checksumMismatch => 0x04
  | .payloadLengthMismatch => 0x05
  | .payloadTooLarge => 0x06
  | .pending => 0x10
  | .frameReady => 0x11
  | .noFrame => 0x12
  | .illegalCommand => 0xFF

/-- The failing statuses (R202). PENDING, FRAME_READY and NO_FRAME are not failures. -/
def Status.failing : Status → Bool
  | .ok => false
  | .frameTooShort => true
  | .badSignature => true
  | .lengthMismatch => true
  | .checksumMismatch => true
  | .payloadLengthMismatch => true
  | .payloadTooLarge => true
  | .pending => false
  | .frameReady => false
  | .noFrame => false
  | .illegalCommand => true

/-- A response that carries no result. -/
def Response.bare (st : Status) : Response := ⟨st, none⟩

/-- The candidate a response carries, when its status is FRAME_READY (R201). -/
def Response.candidate? (r : Response) : Option Bytes :=
  match r.status, r.result with
  | .frameReady, some (.candidate cand) => some cand
  | _, _ => none

end Sys2Proof.Machine
end

