-- ==== Sys2Proof/Machine/Codec.lean ====
section
/-! DEFINITION. The frame codec: FRAME_BUILD (spec/41_serializer.md) and FRAME_PARSE (spec/42_deserializer.md). Both are pure:
they read and write neither `crc` nor `rx_buf` (R126, R149). -/

namespace Sys2Proof.Machine

/-- What the checksum of a frame covers: the length byte, the six header bytes and the payload (R64, R120, R123). -/
def frameBody (version flags src dst opcode : Byte) (payload : Bytes) : Bytes :=
  [lenByte (payload.length + Config.lenOverhead), version, flags, src, dst, opcode, lenByte payload.length] ++ payload

/-- The frame: signature, body, checksum low byte first (R60, R120, R124). -/
def buildFrame (version flags src dst opcode : Byte) (payload : Bytes) : Bytes :=
  let body := frameBody version flags src dst opcode payload
  [Config.sig] ++ body ++ wordBytes (crc16 body)

/-- FRAME_BUILD's response: PAYLOAD_TOO_LARGE above MAX_PAYLOAD, with no frame bytes at all (R120, R125). -/
def buildResponse (version flags src dst opcode : Byte) (payload : Bytes) : Response :=
  if Config.maxPayload < payload.length then .bare .payloadTooLarge
  else ⟨.ok, some (.frame (buildFrame version flags src dst opcode payload))⟩

/-- FRAME_BUILD (R120). -/
def execFrameBuild (version flags src dst opcode : Byte) (payload : Bytes) (s : State) :
    Host.Outcome State Fault Refusal :=
  let r := buildResponse version flags src dst opcode payload
  complete r.status r.result s

/-- The checksum a candidate of n bytes carries: its last two bytes, low byte first (R42, R144). -/
def sentChecksum (c : Bytes) : Word16 :=
  wordOfBytes (byteAt c (c.length - 2)) (byteAt c (c.length - 1))

/-- The checksum recomputed over `c[1..n-2)` (R144, conflict C3). -/
def coveredChecksum (c : Bytes) : Word16 :=
  crc16 (slice c 1 (c.length - 2))

/-- The five checks in their order; the first that fails decides (R140 to R146). The sum of check 3 is not truncated (R143). -/
def parseStatus (c : Bytes) : Status :=
  if c.length < Config.minFrame then .frameTooShort
  else if byteAt c 0 ≠ Config.sig then .badSignature
  else if (byteAt c 1).toNat + 2 ≠ c.length then .lengthMismatch
  else if coveredChecksum c ≠ sentChecksum c then .checksumMismatch
  else if (byteAt c 7).toNat ≠ (byteAt c 1).toNat - Config.lenOverhead then .payloadLengthMismatch
  else .ok

/-- The fields of an accepted candidate, by position (R148, R150). -/
def parsedFields (c : Bytes) : ParsedFrame where
  version := byteAt c 2
  flags := byteAt c 3
  src := byteAt c 4
  dst := byteAt c 5
  opcode := byteAt c 6
  payloadLen := byteAt c 7
  payload := slice c 8 (c.length - 2)

/-- FRAME_PARSE's response: a rejection carries no result (R147), an acceptance the whole ParsedFrame (R148). -/
def parseResponse (c : Bytes) : Response :=
  match parseStatus c with
  | .ok => ⟨.ok, some (.parsed (parsedFields c))⟩
  | st => .bare st

/-- FRAME_PARSE cand (R140). -/
def execFrameParse (cand : Bytes) (s : State) : Host.Outcome State Fault Refusal :=
  let r := parseResponse cand
  complete r.status r.result s

end Sys2Proof.Machine
end

