-- ==== Sys2Proof/Machine/Framer.lean ====
section
/-! DEFINITION. The receive framer (spec/43_rx_framer.md). It neither reads nor writes `crc` and never calls the codec (R170). -/

namespace Sys2Proof.Machine

/-- The loop of RX_BYTE after the append (R172): while at least two bytes are held and the first is not the signature, it is
dropped (R173); once the first byte is the signature, the second gives the expected size, and the candidate is cut out when that
many bytes are held (R174). Answers what is left in the buffer, and the candidate if one was cut out. -/
def extract : Bytes → Bytes × Option Bytes
  | [] => ([], none)
  | [b] => ([b], none)
  | first :: second :: rest =>
    if first ≠ Config.sig then extract (second :: rest)
    else
      let buf := first :: second :: rest
      let need := 2 + second.toNat
      if buf.length < need then (buf, none) else (buf.drop need, some (buf.take need))

/-- RX_BEGIN (R171). -/
def execRxBegin (s : State) : Host.Outcome State Fault Refusal :=
  complete .ok none (writeRxBuf [] s)

/-- RX_BYTE b: append, then try to extract (R172). -/
def execRxByte (b : Byte) (s : State) : Host.Outcome State Fault Refusal :=
  match extract (readRxBuf s ++ [b]) with
  | (left, some cand) => complete .frameReady (some (.candidate cand)) (writeRxBuf left s)
  | (left, none) => complete .pending none (writeRxBuf left s)

/-- RX_IDLE: an empty poll changes nothing (R182). -/
def execRxIdle (s : State) : Host.Outcome State Fault Refusal :=
  complete .pending none s

/-- RX_TIMEOUT: the buffered bytes are discarded (R184). -/
def execRxTimeout (s : State) : Host.Outcome State Fault Refusal :=
  complete .noFrame none (writeRxBuf [] s)

end Sys2Proof.Machine
end

