-- ==== Sys2Proof/Machine/Dispatch.lean ====
section
/-! DEFINITION. One arm per constructor of Instr, each one direct call of the instruction's own meaning. -/

namespace Sys2Proof.Machine

def exec (i : Instr) (s : State) : Host.Outcome State Fault Refusal :=
  match i with
  | .crcInit => Sys2Proof.Machine.execCrcInit s
  | .crcFeed b => Sys2Proof.Machine.execCrcFeed b s
  | .crcRead => Sys2Proof.Machine.execCrcRead s
  | .crcCompute data => Sys2Proof.Machine.execCrcCompute data s
  | .frameBuild version flags src dst opcode payload => Sys2Proof.Machine.execFrameBuild version flags src dst opcode payload s
  | .frameParse cand => Sys2Proof.Machine.execFrameParse cand s
  | .rxBegin => Sys2Proof.Machine.execRxBegin s
  | .rxByte b => Sys2Proof.Machine.execRxByte b s
  | .rxIdle => Sys2Proof.Machine.execRxIdle s
  | .rxTimeout => Sys2Proof.Machine.execRxTimeout s

end Sys2Proof.Machine
end

