-- ==== Sys2Proof/Machine/Transaction.lean ====
section
/-! DEFINITION. One step of the machine: the host's next event, taken whole (spec/00_scope.md R8, spec/20_memory.md R47, R50). -/

namespace Sys2Proof.Machine

/-- A delivered command: its code is decided before its operands (R203). A legal one runs; an illegal code returns
ILLEGAL_COMMAND (R205); operands of the wrong shape are refused by the interface (R84, log entry 4). -/
def deliver (c : Command) (s : State) : Host.Outcome State Fault Refusal :=
  match decode c with
  | .legal i => exec i s
  | .illegalCode _ => takeIllegalCommand s
  | .malformed m => .refused (.malformedOperands m)

/-- The host's next event leaves its queue and takes effect. With nothing queued the block is idle and keeps its state: it never
acts on its own (R8, R215; log entry 3). -/
def hostStep (s : State) : Host.Outcome State Fault Refusal :=
  match s.hostQueue with
  | [] => .next s
  | .reset :: rest => .next (takeReset (setQueue rest s))
  | .command c :: rest => deliver c (setQueue rest s)

end Sys2Proof.Machine
end

