-- ==== Sys2Proof/Machine/Step.lean ====
section
/-! DEFINITION. The step function, and the host placing an opcode-table word as its next command. -/

namespace Sys2Proof.Machine

/-- One step: one event of the host, from its delivery to its response (Machine/Transaction.lean). -/
def step (s : State) : Host.Outcome State Fault Refusal :=
  hostStep s

/-- The state in which the host's next command is the one an opcode-table word stands for (log entries 1 and 5). -/
def State.withFetchWord (s : State) (nbits w : Nat) : State :=
  placeTableWord nbits w s

end Sys2Proof.Machine
end

