-- ==== Sys2Proof/Machine/Assembler.lean ====
section
/-! DEFINITION. The syntax of host programs, one command a line (spec/30_encoding.md R86; log entry 10). It is notation: the
block sees only the command. A number outside 0 to 255 is refused here, never reduced modulo 256 (R82, R127). -/

namespace Sys2Proof.Machine

/-- The tokens of a line. -/
inductive Token where
  | word (cs : List Char)
  | text (cs : List Char)
  | equals
  | comma
  | openBracket
  | closeBracket
deriving DecidableEq, Repr

/-- Where the reader of a line stands: in a word (perhaps an empty one) or in a quoted text; characters so far, last first. -/
inductive LexMode where
  | word (acc : List Char)
  | text (acc : List Char)
deriving DecidableEq, Repr

/-- What a line of a host program is. -/
inductive Line where
  | blank
  | command (c : Command)
  | bad
deriving DecidableEq, Repr

/-- The double quote. -/
def quoteChar : Char := Char.ofNat 34

/-- The word read so far, as a token if it is not empty. -/
def endWord (acc : List Char) : List Token :=
  if acc = [] then [] else [.word acc.reverse]

/-- The tokens of a line up to its end or its comment; none for a quoted text that does not end. -/
def lexLine : LexMode → List Char → Option (List Token)
  | .word acc, [] => some (endWord acc)
  | .text _, [] => none
  | .text acc, c :: cs =>
    if c = quoteChar then (lexLine (.word []) cs).map (.text acc.reverse :: ·)
    else lexLine (.text (c :: acc)) cs
  | .word acc, c :: cs =>
    if c = ';' then some (endWord acc)
    else if c = ' ' ∨ c = '\t' then (lexLine (.word []) cs).map (endWord acc ++ ·)
    else if c = quoteChar then (lexLine (.text []) cs).map (endWord acc ++ ·)
    else if c = '=' then (lexLine (.word []) cs).map (endWord acc ++ .equals :: ·)
    else if c = ',' then (lexLine (.word []) cs).map (endWord acc ++ .comma :: ·)
    else if c = '[' then (lexLine (.word []) cs).map (endWord acc ++ .openBracket :: ·)
    else if c = ']' then (lexLine (.word []) cs).map (endWord acc ++ .closeBracket :: ·)
    else lexLine (.word (c :: acc)) cs

/-- A digit of base 10 or 16. -/
def digitOf (base : Nat) (c : Char) : Option Nat :=
  let n := c.toNat
  let d :=
    if 48 ≤ n ∧ n ≤ 57 then some (n - 48)
    else if 65 ≤ n ∧ n ≤ 70 then some (n - 55)
    else if 97 ≤ n ∧ n ≤ 102 then some (n - 87)
    else none
  d.filter (· < base)

/-- The value of a run of digits, from the value so far. -/
def digitsValue (base : Nat) : Nat → List Char → Option Nat
  | v, [] => some v
  | v, c :: cs => (digitOf base c).bind fun d => digitsValue base (v * base + d) cs

/-- A number: hexadecimal with `0x`, or decimal. -/
def numberOf : List Char → Option Nat
  | [] => none
  | '0' :: 'x' :: c :: cs => digitsValue 16 0 (c :: cs)
  | c :: cs => digitsValue 10 0 (c :: cs)

/-- A byte operand: a number 0 to 255; any other number is refused (R82). -/
def byteOf (cs : List Char) : Option Byte :=
  (numberOf cs).bind fun n => if n < 256 then some (BitVec.ofNat 8 n) else none

/-- The bytes of an ASCII text. -/
def asciiBytes (cs : List Char) : Option Bytes :=
  cs.mapM fun c => if c.toNat < 128 then some (BitVec.ofNat 8 c.toNat) else none

/-- The rest of a non-empty bracketed list, up to the end of the line. -/
def bracketItems : List Token → Option Bytes
  | [.word w, .closeBracket] => (byteOf w).map ([·])
  | .word w :: .comma :: rest => (byteOf w).bind fun b => (bracketItems rest).map (b :: ·)
  | _ => none

/-- A byte sequence, up to the end of the line: a bracketed list or a quoted text. -/
def sequenceOf : List Token → Option Bytes
  | [.text cs] => asciiBytes cs
  | [.openBracket, .closeBracket] => some []
  | .openBracket :: rest => bracketItems rest
  | _ => none

/-- FRAME_BUILD's labelled operands: the byte fields in order, then the payload. -/
def labelledOperands : List String → List Token → Option (List Operand)
  | [], .word label :: .equals :: rest =>
    if label = "payload".toList then (sequenceOf rest).map fun s => [.bytes s] else none
  | name :: names, .word label :: .equals :: .word v :: .comma :: rest =>
    if label = name.toList then
      (byteOf v).bind fun b => (labelledOperands names rest).map (.byte b :: ·)
    else none
  | _, _ => none

/-- The operands of a command, as its line gives them. -/
def operandsOf : Mnemonic → List Token → Option (List Operand)
  | .frameBuild, ts => labelledOperands ["version", "flags", "src", "dst", "opcode"] ts
  | m, ts =>
    match m.shape, ts with
    | [], [] => some []
    | [.byte], [.word w] => (byteOf w).map fun b => [.byte b]
    | [.bytes], ts => (sequenceOf ts).map fun s => [.bytes s]
    | _, _ => none

/-- One line of a host program (R86). A line that is a number alone issues that code without operands, as program 3 of
spec/95_test_vectors.md does with 0x77. -/
def assembleLine (line : List Char) : Line :=
  match lexLine (.word []) line with
  | some [] => .blank
  | some (.word name :: rest) =>
    match commandMap.find? fun m => m.text.toList == name with
    | some m =>
      match operandsOf m rest with
      | some ops => .command ⟨m.code, ops⟩
      | none => .bad
    | none =>
      match byteOf name, rest with
      | some code, [] => .command ⟨code, []⟩
      | _, _ => .bad
  | _ => .bad

/-- The events of a host program: its lines' commands in order; none if a line is bad. -/
def assemble : List (List Char) → Option (List HostEvent)
  | [] => some []
  | line :: lines =>
    match assembleLine line with
    | .blank => assemble lines
    | .command c => (assemble lines).map (.command c :: ·)
    | .bad => none

end Sys2Proof.Machine
end

