-- ==== Sys2Proof/Machine/HostProgram.lean ====
section
/-! DEFINITION. The host's side of the interface: one transaction, the pseudo-commands of spec/30_encoding.md R87, and the
read-frame call under the host's wall clock (spec/43_rx_framer.md R183). All of it is notation and host behaviour: the block
sees only the commands it expands to. -/

namespace Sys2Proof.Machine

/-- One transaction: the host issues this command now (R80), before anything it has queued. -/
def transact (c : Command) (s : State) : Host.Outcome State Fault Refusal :=
  step (placeEvent (.command c) s)

/-- The candidate in the last response, if its status is FRAME_READY. -/
def State.candidate? (s : State) : Option Bytes :=
  s.response.bind Response.candidate?

/-- CRC_STREAM s: CRC_INIT, a CRC_FEED for each byte, CRC_READ (R87). -/
def crcStream (s : Bytes) : List Command :=
  [encode .crcInit] ++ s.map (fun b => encode (.crcFeed b)) ++ [encode .crcRead]

/-- RX_FEED s: an RX_BYTE for each byte, stopping after the first FRAME_READY (R87). -/
def rxFeed : Bytes → State → Host.Outcome State Fault Refusal
  | [], s => .next s
  | b :: rest, s =>
    match transact (encode (.rxByte b)) s with
    | .next t =>
      match t.candidate? with
      | some _ => .next t
      | none => rxFeed rest t
    | stop => stop

/-- READ_FRAME s: RX_BEGIN, RX_FEED s, then RX_TIMEOUT only if no FRAME_READY came (R87). The last response is the answer. -/
def readFrame (bytes : Bytes) (s : State) : Host.Outcome State Fault Refusal :=
  match transact (encode .rxBegin) s with
  | .next t =>
    match rxFeed bytes t with
    | .next u =>
      match u.candidate? with
      | some _ => .next u
      | none => transact (encode .rxTimeout) u
    | stop => stop
  | stop => stop

/-- RECV s: READ_FRAME s, then FRAME_PARSE of the candidate if one came (R87). The last response is the answer. -/
def recv (bytes : Bytes) (s : State) : Host.Outcome State Fault Refusal :=
  match readFrame bytes s with
  | .next t =>
    match t.candidate? with
    | some cand => transact (encode (.frameParse cand)) t
    | none => .next t
  | stop => stop

/-- The two parameters the block leaves open (R5), arguments of the host's read-frame call: `T_DEADLINE`, the wall-clock budget of
one call, and `T_BYTE`, the timeout of one byte read, which is the smaller of the two (R183). No meaning of a command reads them. -/
structure HostTiming where
  deadline : Nat
  byteTimeout : Nat
  ordered : byteTimeout < deadline
deriving DecidableEq, Repr

/-- What the byte source does when it is polled: it is ready after this time, with a byte or with none (R182, R183; log entry 9). -/
structure Poll where
  wait : Nat
  byte : Option Byte
deriving DecidableEq, Repr

/-- How a read-frame call stands, with the time since its RX_BEGIN. -/
inductive CallStatus where
  /-- an RX_BYTE returned FRAME_READY -/
  | ready (elapsed : Nat)
  /-- the host issued RX_TIMEOUT -/
  | timedOut (elapsed : Nat)
  /-- the byte source has more to give and the deadline has not passed (R245) -/
  | waiting (elapsed : Nat)
deriving DecidableEq, Repr

/-- How long a read takes: until the source is ready, and never longer than `T_BYTE` (R5, R183). -/
def Poll.duration (p : Poll) (timing : HostTiming) : Nat := min p.wait timing.byteTimeout

/-- What a read returns: the source's byte, or none when the source is not ready within `T_BYTE` (R5, R182). -/
def Poll.returned (p : Poll) (timing : HostTiming) : Option Byte :=
  if p.wait ≤ timing.byteTimeout then p.byte else none

/-- The time these reads take together. -/
def pollTime (timing : HostTiming) (polls : List Poll) : Nat := (polls.map (fun p => p.duration timing)).sum

/-- The command a read leads to: RX_BYTE for a byte, RX_IDLE for an empty poll (R182, R183). -/
def Poll.command (p : Poll) (timing : HostTiming) : Command :=
  match p.returned timing with
  | some b => encode (.rxByte b)
  | none => encode .rxIdle

/-- The deadline has passed and no FRAME_READY has come: the host issues RX_TIMEOUT (R183). -/
def endCall (elapsed : Nat) (s : State) : Host.Outcome (State × CallStatus) Fault Refusal :=
  match transact (encode .rxTimeout) s with
  | .next t => .next (t, .timedOut elapsed)
  | .fault r => .fault r
  | .refused r => .refused r

/-- The host's loop (R183): between polls, each of at most `T_BYTE`, it compares the elapsed time with `T_DEADLINE`, and ends the
call when the time has passed and no FRAME_READY has come. Answers the state after the last command, and how the call stands. -/
def pollLoop (timing : HostTiming) : List Poll → Nat → State → Host.Outcome (State × CallStatus) Fault Refusal
  | [], elapsed, s => if timing.deadline ≤ elapsed then endCall elapsed s else .next (s, .waiting elapsed)
  | p :: polls, elapsed, s =>
    if timing.deadline ≤ elapsed then endCall elapsed s
    else
      match transact (p.command timing) s with
      | .next t =>
        match t.candidate? with
        | some _ => .next (t, .ready (elapsed + p.duration timing))
        | none => pollLoop timing polls (elapsed + p.duration timing) t
      | .fault r => .fault r
      | .refused r => .refused r

/-- A read-frame call under the host's clock, which starts with RX_BEGIN (R183). `T_DEADLINE` and `T_BYTE` are its argument (R5). -/
def readFrameTimed (timing : HostTiming) (polls : List Poll) (s : State) :
    Host.Outcome (State × CallStatus) Fault Refusal :=
  match transact (encode .rxBegin) s with
  | .next t => pollLoop timing polls 0 t
  | .fault r => .fault r
  | .refused r => .refused r

end Sys2Proof.Machine
end

