-- ==== Sys2Proof/Safety.lean ====
section
/-! DEFINITION. What claims about the machine are stated in: the framer's invariant (spec/43_rx_framer.md R175), the table of
statuses and results (spec/60_exceptions.md R201), commands the interface accepts, and what a run returns. -/

namespace Sys2Proof

/-- The interface accepts the command: its code is illegal (and answered so, R205), or its operands fit its shape (R84). -/
def Command.accepted (c : Command) : Bool :=
  match mnemonicOf c.code with
  | none => true
  | some m => operandsFit m c.operands

/-- The interface accepts the event. -/
def HostEvent.accepted : HostEvent → Bool
  | .command c => c.accepted
  | .reset => true

end Sys2Proof

namespace Sys2Proof.Machine

/-- The framer's invariant between commands (R175): at most one byte is held, or the first is the signature and the candidate is
not complete. -/
abbrev rxInvariant (buf : Bytes) : Prop :=
  buf.length ≤ 1 ∨ (byteAt buf 0 = Config.sig ∧ buf.length < 2 + (byteAt buf 1).toNat)

/-- A state in which the framer's invariant holds. -/
abbrev State.Inv (s : State) : Prop := rxInvariant s.rxBuf

/-- The host uses no event the interface would refuse. -/
abbrev State.HostBehaves (s : State) : Prop := ∀ e ∈ s.hostQueue, e.accepted = true

/-- The responses an instruction may return (R201, columns "returned by" and "result"; R82, column "result on success"). -/
def responseAllowed (i : Instr) (r : Response) : Bool :=
  match i, r.status, r.result with
  | .crcInit, .ok, none => true
  | .crcFeed _, .ok, none => true
  | .crcRead, .ok, some (.value _) => true
  | .crcCompute _, .ok, some (.value _) => true
  | .frameBuild .., .ok, some (.frame _) => true
  | .frameBuild .., .payloadTooLarge, none => true
  | .frameParse _, .ok, some (.parsed _) => true
  | .frameParse _, .frameTooShort, none => true
  | .frameParse _, .badSignature, none => true
  | .frameParse _, .lengthMismatch, none => true
  | .frameParse _, .checksumMismatch, none => true
  | .frameParse _, .payloadLengthMismatch, none => true
  | .rxBegin, .ok, none => true
  | .rxByte _, .pending, none => true
  | .rxByte _, .frameReady, some (.candidate _) => true
  | .rxIdle, .pending, none => true
  | .rxTimeout, .noFrame, none => true
  | _, _, _ => false

/-- The instructions that read or write `crc` (R21). -/
def usesCrc : Instr → Bool
  | .crcInit => true
  | .crcFeed _ => true
  | .crcRead => true
  | .crcCompute _ => false
  | .frameBuild _ _ _ _ _ _ => false
  | .frameParse _ => false
  | .rxBegin => false
  | .rxByte _ => false
  | .rxIdle => false
  | .rxTimeout => false

/-- The instructions that read or write `rx_buf` (R22, R170). -/
def usesRxBuf : Instr → Bool
  | .crcInit => false
  | .crcFeed _ => false
  | .crcRead => false
  | .crcCompute _ => false
  | .frameBuild _ _ _ _ _ _ => false
  | .frameParse _ => false
  | .rxBegin => true
  | .rxByte _ => true
  | .rxIdle => false
  | .rxTimeout => true

/-- The instructions that have no side effect or the same one when repeated (R48): all but CRC_FEED and RX_BYTE. -/
def repeatable : Instr → Bool
  | .crcInit => true
  | .crcFeed _ => false
  | .crcRead => true
  | .crcCompute _ => true
  | .frameBuild _ _ _ _ _ _ => true
  | .frameParse _ => true
  | .rxBegin => true
  | .rxByte _ => false
  | .rxIdle => true
  | .rxTimeout => true

/-- The next state of an outcome, if there is one. -/
def nextOf {σ φ ρ : Type} : Host.Outcome σ φ ρ → Option σ
  | .next s => some s
  | .fault _ => none
  | .refused _ => none

/-- k steps, stopping at the first stop: `Host.Core.run` of the machine, at the machine's own types. -/
def runSteps : Nat → State → Host.Outcome State Fault Refusal
  | 0, s => .next s
  | k + 1, s =>
    match step s with
    | .next t => runSteps k t
    | .fault r => .fault r
    | .refused r => .refused r

/-- The responses of the next k steps, one for each step that gives a next state. -/
def responses : Nat → State → List (Option Response)
  | 0, _ => []
  | k + 1, s =>
    match step s with
    | .next t => t.response :: responses k t
    | _ => []

/-- The state in which the host issues these commands next, before what it has queued. -/
def State.issuing (s : State) (cs : List Command) : State :=
  { s with hostQueue := cs.map HostEvent.command ++ s.hostQueue }

/-- The commands that hand a byte sequence to the framer. -/
def rxBytes (bytes : Bytes) : List Command :=
  bytes.map fun b => encode (.rxByte b)

/-- The commands that hand a byte sequence to the CRC register. -/
def crcFeeds (bytes : Bytes) : List Command :=
  bytes.map fun b => encode (.crcFeed b)

/-- The sequence with bit k of byte i flipped. -/
def flipBit (s : Bytes) (i k : Nat) : Bytes :=
  s.set i (byteAt s i ^^^ ((1 : Byte) <<< k))

end Sys2Proof.Machine
end

