-- ==== Sys2Proof/Certificates/Slice0/Obligations.lean ====
section
/-! DEFINITION. The statements for the provers, each from a rule of spec/. -/

open Sys2Proof Sys2Proof.Machine

/-! ### Reset, the step and decoding -/

/-- R31: the reset values of the two pieces of state. -/
def Obligations.ResetValues : Prop :=
  State.reset.crc = 0xFFFF ∧ State.reset.rxBuf = []

/-- R230: the reset input, between any two commands, from any state (one before the first reset among them, R32): `crc` and
`rx_buf` take their reset values and no response is returned. -/
def Obligations.ResetInputClearsTheBlock : Prop :=
  ∀ (s : State) (rest : List HostEvent), s.hostQueue = .reset :: rest →
    ∃ t, step s = .next t ∧ t.crc = 0xFFFF ∧ t.rxBuf = [] ∧ t.response = none

/-- R8, R215: with no command issued the block is idle and keeps its state (the step's form is the model's choice, log entry 3). -/
def Obligations.IdleBlockKeepsItsState : Prop :=
  ∀ s : State, s.hostQueue = [] → step s = .next s

/-- A step runs the decoded instruction: the command leaves the host's queue, and the rest of the step is exec (log entry 1). -/
def Obligations.StepRunsTheDecodedCommand : Prop :=
  ∀ (s : State) (c : Command) (rest : List HostEvent) (i : Instr),
    s.hostQueue = .command c :: rest → decode c = .legal i →
    step s = exec i { s with hostQueue := rest }

/-- R83, R205: each code outside the command map returns ILLEGAL_COMMAND with no result and changes no state, whatever its
operands. -/
def Obligations.IllegalCodesReturnIllegalCommand : Prop :=
  ∀ (s : State) (code : Byte) (ops : List Operand) (rest : List HostEvent),
    s.hostQueue = .command ⟨code, ops⟩ :: rest →
    (code = 0x00 ∨ (0x05 ≤ code ∧ code ≤ 0x0F) ∨ (0x11 ≤ code ∧ code ≤ 0x1F) ∨ (0x21 ≤ code ∧ code ≤ 0x2F) ∨ 0x34 ≤ code) →
    step s = .next { s with hostQueue := rest, response := some ⟨.illegalCommand, none⟩ }

/-- The code alone selects the command and its shape (R84): operands that fit run the instruction of that code, and of no other,
with those operands, to a next state; operands that do not fit are refused. That the refusal is a refusal of the step is the model's
reading (log entry 4). -/
def Obligations.MisshapenCommandsAreRefused : Prop :=
  ∀ (s : State) (m : Mnemonic) (ops : List Operand) (rest : List HostEvent),
    s.hostQueue = .command ⟨m.code, ops⟩ :: rest →
    (ops.map Operand.kind ≠ m.shape → step s = .refused (.malformedOperands m)) ∧
    (ops.map Operand.kind = m.shape → ∃ (i : Instr) (t : State), i.mnemonic = m ∧ i.operands = ops ∧
      step s = exec i { s with hostQueue := rest } ∧ exec i { s with hostQueue := rest } = .next t ∧
      ∀ j : Instr, j.mnemonic = m → j.operands = ops → j = i)

/-- Decoding and encoding agree for every command and every instruction: a command decodes to an instruction exactly when it is
that instruction's encoding. -/
def Obligations.DecodeInvertsEncode : Prop :=
  ∀ (c : Command) (i : Instr), decode c = .legal i ↔ c = encode i

/-- R81, R82: the ten codes, each with operands of its shape (one operand value each, different in every field). -/
def Obligations.CommandMapDecodes : Prop :=
  decode ⟨0x01, []⟩ = .legal .crcInit ∧
  decode ⟨0x02, [.byte 0x5A]⟩ = .legal (.crcFeed 0x5A) ∧
  decode ⟨0x03, []⟩ = .legal .crcRead ∧
  decode ⟨0x04, [.bytes [0x31, 0x32, 0x33]]⟩ = .legal (.crcCompute [0x31, 0x32, 0x33]) ∧
  decode ⟨0x10, [.byte 1, .byte 2, .byte 3, .byte 4, .byte 5, .bytes [6, 7]]⟩ = .legal (.frameBuild 1 2 3 4 5 [6, 7]) ∧
  decode ⟨0x20, [.bytes [0xAA, 0x08]]⟩ = .legal (.frameParse [0xAA, 0x08]) ∧
  decode ⟨0x30, []⟩ = .legal .rxBegin ∧
  decode ⟨0x31, [.byte 0xAA]⟩ = .legal (.rxByte 0xAA) ∧
  decode ⟨0x32, []⟩ = .legal .rxIdle ∧
  decode ⟨0x33, []⟩ = .legal .rxTimeout

/-! ### The CRC unit -/

/-- R104: CRC_INIT. -/
def Obligations.CrcInitStartsFromFFFF : Prop :=
  decode ⟨0x01, []⟩ = .legal .crcInit ∧
  (∀ s : State, exec .crcInit s = .next { s with crc := 0xFFFF, response := some ⟨.ok, none⟩ }) ∧
  (∀ s t : State, exec .crcInit s = .next t → exec .crcInit t = .next t) ∧
  (∀ t : State, exec .crcInit .reset = .next t → t.crc = State.reset.crc ∧ t.rxBuf = State.reset.rxBuf)

/-- R105: CRC_FEED, the register after two of them in their order, and the rule's three values. -/
def Obligations.CrcFeedStepsTheRegister : Prop :=
  (∀ b : Byte, decode ⟨0x02, [.byte b]⟩ = .legal (.crcFeed b)) ∧
  (∀ (b : Byte) (s : State),
    exec (.crcFeed b) s = .next { s with crc := crcStep s.crc b, response := some ⟨.ok, none⟩ }) ∧
  (∀ (a b : Byte) (s t u : State), exec (.crcFeed a) s = .next t → exec (.crcFeed b) t = .next u →
    u.crc = crcStep (crcStep s.crc a) b) ∧
  crcStep 0xFFFF 0x00 = 0x40BF ∧ crcStep 0x0000 0x00 = 0x0000 ∧ crcStep 0xFFFF 0x08 = 0x86BE

/-- R106: CRC_READ, with the rule's corner case and example. -/
def Obligations.CrcReadReturnsTheRegister : Prop :=
  decode ⟨0x03, []⟩ = .legal .crcRead ∧
  (∀ s : State, exec .crcRead s = .next { s with response := some ⟨.ok, some (.value s.crc)⟩ }) ∧
  exec .crcRead .reset = .next { State.reset with response := some ⟨.ok, some (.value 0xFFFF)⟩ } ∧
  (∀ s t : State, exec .crcInit s = .next t →
    exec .crcRead t = .next { t with response := some ⟨.ok, some (.value 0xFFFF)⟩ }) ∧
  (∀ s t u : State, exec .crcInit s = .next t → exec (.crcFeed 0x00) t = .next u →
    exec .crcRead u = .next { u with response := some ⟨.ok, some (.value 0x40BF)⟩ })

/-- R107: CRC_COMPUTE, with the rule's corner case and example; no state changes, whatever `crc` holds. -/
def Obligations.CrcComputeReturnsCrc16 : Prop :=
  (∀ data : Bytes, decode ⟨0x04, [.bytes data]⟩ = .legal (.crcCompute data)) ∧
  (∀ (data : Bytes) (s : State),
    exec (.crcCompute data) s = .next { s with response := some ⟨.ok, some (.value (crc16 data))⟩ }) ∧
  crc16 [] = 0xFFFF ∧ crc16 [0x08, 0x01, 0x05, 0x01, 0x20, 0x01, 0x00] = 0xB75E

/-- R101: CRC16 is the fold of the step from 0xFFFF, with nothing applied at the end. -/
def Obligations.Crc16FoldsTheStep : Prop :=
  crc16 [] = 0xFFFF ∧ ∀ (s : Bytes) (b : Byte), crc16 (s ++ [b]) = crcStep (crc16 s) b

/-- The step bit by bit (R100; the spec marks this reading of the source as its own, decision D7 and passage K2): the byte enters
bits 7..0, then eight times bit i becomes bit i + 1, with the feedback 0xA001 when bit 0 was 1. -/
def Obligations.CrcStepBitByBit : Prop :=
  ∃ shift : Word16 → Word16,
    (∀ (c : Word16) (i : Nat), i < 16 →
      (shift c).getLsbD i = ((c.getLsbD (i + 1)).xor (c.getLsbD 0 && (0xA001#16).getLsbD i))) ∧
    (∀ (c : Word16) (b : Byte), crcStep c b = shift^[8] (c ^^^ b.setWidth 16))

/-- The ground the spec gives under R111 ("each step is linear over GF(2)", its own inference). -/
def Obligations.CrcStepIsLinear : Prop :=
  ∀ (c d : Word16) (a b : Byte), crcStep (c ^^^ d) (a ^^^ b) = crcStep c a ^^^ crcStep d b

/-- The law of R111 (derived in the spec): every single-bit change to a sequence changes its CRC16. -/
def Obligations.SingleBitChangesCrc16 : Prop :=
  ∀ (s : Bytes) (i k : Nat), i < s.length → k < 8 → crc16 (flipBit s i k) ≠ crc16 s

/-- A sequence followed by its own CRC16, low byte first, has CRC16 zero (the last row of V5, for every sequence). -/
def Obligations.Crc16OfCheckedSequenceIsZero : Prop :=
  ∀ s : Bytes, crc16 (s ++ [(crc16 s).setWidth 8, (crc16 s >>> 8).setWidth 8]) = 0

/-- The law of R108 (derived in the spec): CRC_INIT, the feeds and CRC_READ return CRC16; from reset without the CRC_INIT too. The
run changes nothing but `crc` and the response. -/
def Obligations.CrcStreamAgreesWithCrc16 : Prop :=
  (∀ (s : State) (data : Bytes),
    runSteps (data.length + 2) (s.issuing (crcStream data)) =
      .next { s with crc := crc16 data, response := some ⟨.ok, some (.value (crc16 data))⟩ }) ∧
  (∀ data : Bytes,
    runSteps (data.length + 1) (State.reset.issuing (crcFeeds data ++ [encode .crcRead])) =
      .next { State.reset with crc := crc16 data, response := some ⟨.ok, some (.value (crc16 data))⟩ })

/-- The law of R109 (derived in the spec): a CRC can be continued. -/
def Obligations.CrcCanBeContinued : Prop :=
  ∀ (s : State) (a b : Bytes), s.crc = crc16 a →
    ∃ t, runSteps b.length (s.issuing (crcFeeds b)) = .next t ∧
      t.crc = crc16 (a ++ b) ∧ t.rxBuf = s.rxBuf ∧ t.hostQueue = s.hostQueue

/-! ### The codec -/

/-- R120 to R124: FRAME_BUILD of a payload that fits returns the frame written out here, changing no state; a payload of more
than 247 bytes returns PAYLOAD_TOO_LARGE. The rule's example is the last clause. -/
def Obligations.FrameBuildSerializes : Prop :=
  (∀ (version flags src dst opcode : Byte) (payload : Bytes),
    decode ⟨0x10, [.byte version, .byte flags, .byte src, .byte dst, .byte opcode, .bytes payload]⟩ =
      .legal (.frameBuild version flags src dst opcode payload)) ∧
  (∀ (version flags src dst opcode : Byte) (payload : Bytes) (s : State), payload.length ≤ 247 →
    let body : Bytes := [BitVec.ofNat 8 (payload.length + 8), version, flags, src, dst, opcode, BitVec.ofNat 8 payload.length] ++
      payload
    let frame : Bytes := [(0xAA : Byte)] ++ body ++ [(crc16 body).setWidth 8, (crc16 body >>> 8).setWidth 8]
    exec (.frameBuild version flags src dst opcode payload) s =
      .next { s with response := some ⟨.ok, some (.frame frame)⟩ } ∧ frame.length = payload.length + 10) ∧
  (∀ (version flags src dst opcode : Byte) (payload : Bytes) (s : State), 247 < payload.length →
    exec (.frameBuild version flags src dst opcode payload) s =
      .next { s with response := some ⟨.payloadTooLarge, none⟩ }) ∧
  (∀ s : State, exec (.frameBuild 0x01 0x05 0x01 0x20 0x01 []) s =
    .next { s with
      response := some ⟨.ok, some (.frame [0xAA, 0x08, 0x01, 0x05, 0x01, 0x20, 0x01, 0x00, 0x5E, 0xB7])⟩ })

/-- R125: a payload longer than 247 bytes, of 248 to 255 bytes among them, gives no frame bytes at all and changes no state. -/
def Obligations.LongPayloadIsRejected : Prop :=
  ∀ (version flags src dst opcode : Byte) (payload : Bytes) (s t : State),
    exec (.frameBuild version flags src dst opcode payload) s = .next t →
    (247 < payload.length ↔ t.response = some ⟨.payloadTooLarge, none⟩) ∧
    (247 < payload.length → t = { s with response := some ⟨.payloadTooLarge, none⟩ })

/-- R128, R60 to R63 (derived in the spec for a built frame): every returned frame keeps the layout's invariants. -/
def Obligations.BuiltFramesKeepTheLayout : Prop :=
  ∀ (version flags src dst opcode : Byte) (payload frame : Bytes) (s t : State),
    exec (.frameBuild version flags src dst opcode payload) s = .next t →
    t.response = some ⟨.ok, some (.frame frame)⟩ →
    frame.length = payload.length + 10 ∧ 10 ≤ frame.length ∧ frame.length ≤ 257 ∧
    frame.getD 0 0 = 0xAA ∧ frame.length = 2 + (frame.getD 1 0).toNat ∧
    (frame.getD 1 0).toNat = payload.length + 8 ∧
    frame.getD 2 0 = version ∧ frame.getD 3 0 = flags ∧ frame.getD 4 0 = src ∧ frame.getD 5 0 = dst ∧
    frame.getD 6 0 = opcode ∧ (frame.getD 7 0).toNat = payload.length ∧
    (frame.drop 8).take payload.length = payload ∧
    frame.getD (frame.length - 1) 0 ++ frame.getD (frame.length - 2) 0 =
      crc16 ((frame.drop 1).take (frame.length - 3))

/-- R141 to R148: the five checks in their order, each with its own status and no result, and what an accepted candidate
returns. No state changes in any case. The checksum sent is the last byte above the last but one. -/
def Obligations.FrameParseChecksInOrder : Prop :=
  ∀ (c : Bytes) (s : State),
    let byte := fun i => c.getD i 0
    let rejected := fun st => exec (.frameParse c) s = .next { s with response := some ⟨st, none⟩ }
    let recomputed := crc16 ((c.drop 1).take (c.length - 3))
    let sent : Word16 := byte (c.length - 1) ++ byte (c.length - 2)
    (c.length < 10 → rejected .frameTooShort) ∧
    (10 ≤ c.length → byte 0 ≠ 0xAA → rejected .badSignature) ∧
    (10 ≤ c.length → byte 0 = 0xAA → (byte 1).toNat + 2 ≠ c.length → rejected .lengthMismatch) ∧
    (10 ≤ c.length → byte 0 = 0xAA → (byte 1).toNat + 2 = c.length → recomputed ≠ sent → rejected .checksumMismatch) ∧
    (10 ≤ c.length → byte 0 = 0xAA → (byte 1).toNat + 2 = c.length → recomputed = sent →
      (byte 7).toNat ≠ (byte 1).toNat - 8 → rejected .payloadLengthMismatch) ∧
    (10 ≤ c.length → byte 0 = 0xAA → (byte 1).toNat + 2 = c.length → recomputed = sent →
      (byte 7).toNat = (byte 1).toNat - 8 →
      exec (.frameParse c) s = .next { s with response := some ⟨.ok, some (.parsed
        { version := byte 2, flags := byte 3, src := byte 4, dst := byte 5, opcode := byte 6, payloadLen := byte 7,
          payload := (c.drop 8).take (c.length - 10) })⟩ } ∧
      ((c.drop 8).take (c.length - 10)).length = (byte 7).toNat) ∧
    (257 < c.length → (byte 1).toNat + 2 ≠ c.length) ∧
    (10 ≤ c.length → (byte 1).toNat ≤ 7 → (byte 1).toNat + 2 ≠ c.length)

/-- The law of R152 (derived in the spec): parsing a built frame returns exactly its fields, whatever bytes they are (R68). -/
def Obligations.ParseInvertsBuild : Prop :=
  ∀ (version flags src dst opcode : Byte) (payload : Bytes) (s u : State), payload.length ≤ 247 →
    ∃ (frame : Bytes) (t : State) (payloadLen : Byte),
      exec (.frameBuild version flags src dst opcode payload) s = .next t ∧
      t.response = some ⟨.ok, some (.frame frame)⟩ ∧
      payloadLen.toNat = payload.length ∧
      exec (.frameParse frame) u =
        .next { u with response := some ⟨.ok, some (.parsed ⟨version, flags, src, dst, opcode, payloadLen, payload⟩)⟩ }

/-- The law of R153 (derived in the spec): an accepted candidate is the frame FRAME_BUILD makes of its fields, byte for byte. -/
def Obligations.AcceptedCandidatesAreBuiltFrames : Prop :=
  ∀ (c : Bytes) (pf : ParsedFrame) (s t u : State),
    exec (.frameParse c) s = .next t → t.response = some ⟨.ok, some (.parsed pf)⟩ →
    pf.payload.length ≤ 247 ∧ pf.payloadLen.toNat = pf.payload.length ∧
    exec (.frameBuild pf.version pf.flags pf.src pf.dst pf.opcode pf.payload) u =
      .next { u with response := some ⟨.ok, some (.frame c)⟩ }

/-- The law of R154 (derived in the spec): the status of a built frame with one bit flipped, by the byte it stands in. -/
def Obligations.SingleBitErrorsAreCaught : Prop :=
  ∀ (version flags src dst opcode : Byte) (payload frame : Bytes) (s t u : State) (i k : Nat),
    exec (.frameBuild version flags src dst opcode payload) s = .next t →
    t.response = some ⟨.ok, some (.frame frame)⟩ → i < frame.length → k < 8 →
    exec (.frameParse (flipBit frame i k)) u =
      .next { u with
        response := some ⟨if i = 0 then .badSignature else if i = 1 then .lengthMismatch else .checksumMismatch, none⟩ }

/-! ### The receive framer -/

/-- R171: RX_BEGIN. -/
def Obligations.RxBeginEmptiesTheBuffer : Prop :=
  decode ⟨0x30, []⟩ = .legal .rxBegin ∧
  ∀ s : State, exec .rxBegin s = .next { s with rxBuf := [], response := some ⟨.ok, none⟩ }

/-- R182: RX_IDLE changes nothing, and an RX_BYTE after it answers and leaves what it would have without it. -/
def Obligations.RxIdleChangesNothing : Prop :=
  decode ⟨0x32, []⟩ = .legal .rxIdle ∧
  (∀ s : State, exec .rxIdle s = .next { s with response := some ⟨.pending, none⟩ }) ∧
  (∀ (s t : State) (b : Byte), exec .rxIdle s = .next t → exec (.rxByte b) t = exec (.rxByte b) s)

/-- R184: RX_TIMEOUT. -/
def Obligations.RxTimeoutDiscardsTheBuffer : Prop :=
  decode ⟨0x33, []⟩ = .legal .rxTimeout ∧
  ∀ s : State, exec .rxTimeout s = .next { s with rxBuf := [], response := some ⟨.noFrame, none⟩ }

/-- RX_BYTE in every state (R172 to R174), the states no run reaches among them: there the model's reading is that the pseudocode of
R172 holds as it stands (log entry 11). After the append, the bytes before the first signature are dropped (all but the last
byte where there is none). What is kept waits while it is shorter than its second byte says, and is cut when it is long enough. -/
def Obligations.RxByteResynchronizesAndExtracts : Prop :=
  ∀ (b : Byte) (s : State),
    let buf := s.rxBuf ++ [b]
    let kept := if 0xAA ∈ buf then buf.dropWhile (fun x => x ≠ 0xAA) else [b]
    let need := 2 + (kept.getD 1 0).toNat
    (kept.length < need →
      exec (.rxByte b) s = .next { s with rxBuf := kept, response := some ⟨.pending, none⟩ }) ∧
    (need ≤ kept.length →
      exec (.rxByte b) s = .next { s with
        rxBuf := kept.drop need
        response := some ⟨.frameReady, some (.candidate (kept.take need))⟩ })

/-- The invariant of R175 (derived in the spec): every step keeps it, whatever the host issues. -/
def Obligations.EveryStepKeepsTheFramerInvariant : Prop :=
  ∀ s t : State, s.Inv → step s = .next t → t.Inv

/-- The invariant of R175 holds after reset. -/
def Obligations.ResetMeetsTheFramerInvariant : Prop :=
  State.reset.Inv

/-- The bounds of R175 (derived in the spec): at most 256 bytes between commands, at most RX_CAP = 257 after the append. -/
def Obligations.FramerInvariantBoundsTheBuffer : Prop :=
  ∀ (s : State) (b : Byte), s.Inv → s.rxBuf.length ≤ 256 ∧ (s.rxBuf ++ [b]).length ≤ Config.rxCap

/-- R176, R177 (derived in the spec): a candidate is the whole buffer, which is left empty; it has 2 to 257 bytes and opens with
the signature. -/
def Obligations.CandidateIsTheWholeBuffer : Prop :=
  ∀ (s t : State) (b : Byte) (cand : Bytes), s.Inv →
    exec (.rxByte b) s = .next t → t.response = some ⟨.frameReady, some (.candidate cand)⟩ →
    cand = s.rxBuf ++ [b] ∧ t.rxBuf = [] ∧ 2 ≤ cand.length ∧ cand.length ≤ 257 ∧ cand.head? = some 0xAA

/-- R178 (derived in the spec): k bytes that are not the signature, then a built frame of n bytes, fed from an empty buffer, give
k + n - 1 times PENDING and then FRAME_READY with exactly that frame. -/
def Obligations.FramerResynchronizes : Prop :=
  ∀ (version flags src dst opcode : Byte) (payload frame noise : Bytes) (s u v : State),
    exec (.frameBuild version flags src dst opcode payload) u = .next v →
    v.response = some ⟨.ok, some (.frame frame)⟩ →
    (∀ x ∈ noise, x ≠ 0xAA) → s.rxBuf = [] →
    responses (noise.length + frame.length) (s.issuing (rxBytes (noise ++ frame))) =
      List.replicate (noise.length + frame.length - 1) (some ⟨.pending, none⟩) ++
        [some ⟨.frameReady, some (.candidate frame)⟩] ∧
    runSteps (noise.length + frame.length) (s.issuing (rxBytes (noise ++ frame))) =
      .next { s with response := some ⟨.frameReady, some (.candidate frame)⟩ }

/-- R179 (derived in the spec): a stream without the signature never yields a candidate, and at most one byte is ever held. -/
def Obligations.NoSignatureNoCandidate : Prop :=
  ∀ (bytes : Bytes) (s : State), (∀ x ∈ bytes, x ≠ 0xAA) → s.rxBuf = [] →
    responses bytes.length (s.issuing (rxBytes bytes)) = List.replicate bytes.length (some ⟨.pending, none⟩) ∧
    ∃ t, runSteps bytes.length (s.issuing (rxBytes bytes)) = .next t ∧ t.rxBuf.length ≤ 1 ∧
      t.crc = s.crc ∧ t.hostQueue = s.hostQueue

/-- R185, R186 (R186 derived in the spec): a call that ends, with FRAME_READY or with RX_TIMEOUT, leaves the buffer empty; RX_TIMEOUT
after FRAME_READY returns NO_FRAME and changes nothing. -/
def Obligations.EndedCallLeavesTheBufferEmpty : Prop :=
  (∀ (s t : State) (b : Byte) (r : Response), s.Inv → exec (.rxByte b) s = .next t → t.response = some r →
    r.status = .frameReady →
    t.rxBuf = [] ∧ exec .rxTimeout t = .next { t with response := some ⟨.noFrame, none⟩ }) ∧
  (∀ s t : State, exec .rxTimeout s = .next t → t.rxBuf = [])

/-- R243's false lock (derived in the spec): a noise byte 0xAA before a frame shorter than 171 bytes swallows the frame: the framer
waits for 172 bytes, and RX_TIMEOUT then finds no frame. -/
def Obligations.NoiseSignatureSwallowsTheFrame : Prop :=
  ∀ (version flags src dst opcode : Byte) (payload frame : Bytes) (s u v : State),
    exec (.frameBuild version flags src dst opcode payload) u = .next v →
    v.response = some ⟨.ok, some (.frame frame)⟩ → frame.length < 171 → s.rxBuf = [] →
    responses (frame.length + 2) (s.issuing (rxBytes (0xAA :: frame) ++ [encode .rxTimeout])) =
      List.replicate (frame.length + 1) (some ⟨.pending, none⟩) ++ [some ⟨.noFrame, none⟩]

/-! ### The whole machine -/

/-- R200 and the "returned by" and "result" columns of R201: every instruction completes, in every state, with exactly one response,
one the table allows it; and so does every command the interface accepts, when the host issues it. -/
def Obligations.EveryCommandReturnsOneResponse : Prop :=
  (∀ (i : Instr) (s : State), ∃ t r, exec i s = .next t ∧ t.response = some r ∧ responseAllowed i r = true) ∧
  (∀ (s : State) (c : Command) (rest : List HostEvent), s.hostQueue = .command c :: rest → c.accepted = true →
    ∃ t r, step s = .next t ∧ t.response = some r ∧ t.hostQueue = rest ∧
      (r.result ≠ none → r.status = .ok ∨ r.status = .frameReady))

/-- The codes of R201, all different, and the failing statuses of R202. -/
def Obligations.StatusCodesOfTheTable : Prop :=
  ([.ok, .frameTooShort, .badSignature, .lengthMismatch, .checksumMismatch, .payloadLengthMismatch, .payloadTooLarge, .pending,
      .frameReady, .noFrame, .illegalCommand] : List Status).map Status.code =
    [0x00, 0x01, 0x02, 0x03, 0x04, 0x05, 0x06, 0x10, 0x11, 0x12, 0xFF] ∧
  (∀ a b : Status, a.code = b.code → a = b) ∧
  (∀ a : Status, a.failing = true ↔ (0x01 ≤ a.code ∧ a.code ≤ 0x06) ∨ a.code = 0xFF)

/-- R200: a host that issues only what the interface accepts never meets a stop, and goes on behaving so. -/
def Obligations.BehavedHostNeverMeetsAStop : Prop :=
  ∀ s : State, s.HostBehaves → ∃ t, step s = .next t ∧ t.HostBehaves

/-- R202 (derived in the spec): a failing status, an illegal command's among them, leaves the block's state as it was and carries
no result. -/
def Obligations.FailuresChangeNothing : Prop :=
  ∀ (s t : State) (c : Command) (rest : List HostEvent) (r : Response),
    s.hostQueue = .command c :: rest → step s = .next t → t.response = some r → r.status.failing = true →
    r.result = none ∧ t.crc = s.crc ∧ t.rxBuf = s.rxBuf

/-- R9: the response of a command, and what it leaves in the block, is a function of the command, its operands, `crc` and `rx_buf`
alone: nothing the model's interface holds enters it. -/
def Obligations.ResponseDependsOnBlockStateAlone : Prop :=
  ∀ (i : Instr) (s u : State), s.crc = u.crc → s.rxBuf = u.rxBuf →
    ∃ (crc : Word16) (buf : Bytes) (r : Response),
      exec i s = .next { s with crc := crc, rxBuf := buf, response := some r } ∧
      exec i u = .next { u with crc := crc, rxBuf := buf, response := some r }

/-- The frame of every instruction (R21, R22, R170): only CRC_INIT and CRC_FEED write `crc`; only RX_BEGIN, RX_BYTE and RX_TIMEOUT
write `rx_buf`; none touches what the host has queued. -/
def Obligations.OnlyTheirOwnCommandsWriteEachPart : Prop :=
  ∀ (i : Instr) (s t : State), exec i s = .next t →
    t.hostQueue = s.hostQueue ∧
    (t.crc ≠ s.crc → i = .crcInit ∨ ∃ b, i = .crcFeed b) ∧
    (t.rxBuf ≠ s.rxBuf → i = .rxBegin ∨ i = .rxTimeout ∨ ∃ b, i = .rxByte b)

/-- R21, R22, R170, the reading half: a command that does not use a part of the state answers the same and leaves the same whatever
that part holds, and leaves that part as it was. -/
def Obligations.CommandsIgnoreThePartTheyDoNotUse : Prop :=
  (∀ (i : Instr) (s : State) (c : Word16), usesCrc i = false →
    ∃ t, exec i s = .next t ∧ t.crc = s.crc ∧ exec i { s with crc := c } = .next { t with crc := c }) ∧
  (∀ (i : Instr) (s : State) (buf : Bytes), usesRxBuf i = false →
    ∃ t, exec i s = .next t ∧ t.rxBuf = s.rxBuf ∧ exec i { s with rxBuf := buf } = .next { t with rxBuf := buf })

/-- R242 (derived in the spec): two commands that share no state may be issued in either order: the block ends in the same state,
and each returns the same response. -/
def Obligations.UnitsMayBeInterleaved : Prop :=
  ∀ (i j : Instr) (s : State), (usesCrc i && usesCrc j) = false → (usesRxBuf i && usesRxBuf j) = false →
    ∃ t u v w : State, exec i s = .next t ∧ exec j t = .next u ∧ exec j s = .next v ∧ exec i v = .next w ∧
      u.crc = w.crc ∧ u.rxBuf = w.rxBuf ∧ t.response = w.response ∧ u.response = v.response

/-- R48 (derived in the spec): repeating any command but CRC_FEED and RX_BYTE changes nothing more and answers the same; those two
are not idempotent. -/
def Obligations.RepeatingChangesNothingMore : Prop :=
  (∀ (i : Instr) (s : State), repeatable i = true → ∃ t, exec i s = .next t ∧ exec i t = .next t) ∧
  (∃ (b : Byte) (s t u : State), exec (.crcFeed b) s = .next t ∧ exec (.crcFeed b) t = .next u ∧ u.crc ≠ t.crc) ∧
  (∃ (b : Byte) (s t u : State), exec (.rxByte b) s = .next t ∧ exec (.rxByte b) t = .next u ∧ u.rxBuf ≠ t.rxBuf)

/-! ### The host's side -/

/-- RECV (R87) through noise, from any state: the frame that was built is received and parsed to its fields, and nothing else of the
block changes (R152, R178). -/
def Obligations.RecvReturnsTheBuiltFields : Prop :=
  ∀ (version flags src dst opcode : Byte) (payload frame noise : Bytes) (s u v : State),
    exec (.frameBuild version flags src dst opcode payload) u = .next v →
    v.response = some ⟨.ok, some (.frame frame)⟩ →
    (∀ x ∈ noise, x ≠ 0xAA) →
    recv (noise ++ frame) s =
      .next { s with
        rxBuf := []
        response := some ⟨.ok, some (.parsed
          ⟨version, flags, src, dst, opcode, BitVec.ofNat 8 payload.length, payload⟩)⟩ }

/-- READ_FRAME (R87) of a stream without the signature, from any state: NO_FRAME and an empty buffer (R179, R184). -/
def Obligations.ReadFrameWithoutSignatureFindsNone : Prop :=
  ∀ (bytes : Bytes) (s : State), (∀ x ∈ bytes, x ≠ 0xAA) →
    readFrame bytes s = .next { s with rxBuf := [], response := some ⟨.noFrame, none⟩ }

/-- The deadline property of R187 with the host's duty of R183, for every T_BYTE below T_DEADLINE (the form of the clock is the
model's, log entry 9): a source that never gives the signature ends in NO_FRAME, not before T_DEADLINE and at most T_BYTE after it;
before the deadline the call waits. -/
def Obligations.DeadlineIsRespected : Prop :=
  ∀ (timing : HostTiming) (polls : List Poll) (s : State),
    (∀ p ∈ polls, p.returned timing ≠ some 0xAA) →
    (timing.deadline ≤ pollTime timing polls →
      ∃ t elapsed, readFrameTimed timing polls s = .next (t, .timedOut elapsed) ∧
        timing.deadline ≤ elapsed ∧ elapsed ≤ timing.deadline + timing.byteTimeout ∧
        t = { s with rxBuf := [], response := some ⟨.noFrame, none⟩ }) ∧
    (pollTime timing polls < timing.deadline →
      ∃ t, readFrameTimed timing polls s = .next (t, .waiting (pollTime timing polls)) ∧ t.rxBuf.length ≤ 1)

/-- R82, R127 in the assembler (its form is the model's, log entry 10): a number is a byte operand exactly when it is at most 255, and
is never reduced modulo 256. -/
def Obligations.NumeralsAreNeverReduced : Prop :=
  ∀ (digits : List Char) (b : Byte), byteOf digits = some b ↔ numberOf digits = some b.toNat

/-- R183, R185, R187 for every byte source and every T_BYTE below T_DEADLINE (the form of the clock is the model's, log entry 9): a
read-frame call ends with a candidate, or with NO_FRAME once T_DEADLINE has passed, within T_DEADLINE + T_BYTE of RX_BEGIN and with
an empty buffer; while it waits, T_DEADLINE has not passed. `crc` and the host's queue are as they were. -/
def Obligations.ReadFrameCallEndsInTime : Prop :=
  ∀ (timing : HostTiming) (polls : List Poll) (s : State),
    ∃ (t : State) (status : CallStatus), readFrameTimed timing polls s = .next (t, status) ∧
      t.crc = s.crc ∧ t.hostQueue = s.hostQueue ∧
      match status with
      | .ready elapsed => elapsed < timing.deadline + timing.byteTimeout ∧ t.rxBuf = [] ∧
          ∃ cand, t.response = some ⟨.frameReady, some (.candidate cand)⟩
      | .timedOut elapsed => timing.deadline ≤ elapsed ∧ elapsed < timing.deadline + timing.byteTimeout ∧ t.rxBuf = [] ∧
          t.response = some ⟨.noFrame, none⟩
      | .waiting elapsed => elapsed < timing.deadline ∧ elapsed = pollTime timing polls
end

