-- ==== Sys2Proof/Laws/Operands.lean ====
section
/-! SUPPORT. The operand forms: splitting and assembling a word, slices and length bytes. -/

namespace Sys2Proof.Machine

/-- Assembling is putting the high byte above the low one. -/
theorem wordOfBytes_eq_append (lo hi : Byte) : wordOfBytes lo hi = hi ++ lo := by
  ext i h
  simp [wordOfBytes, zext16]
  grind

/-- Splitting a word and assembling it again gives the word. -/
theorem wordOfBytes_split (w : Word16) : wordOfBytes (lo8 w) (hi8 w) = w := by
  rw [wordOfBytes_eq_append]
  ext i h
  simp [lo8, hi8]
  grind

/-- Assembling two bytes and splitting the word gives the bytes. -/
theorem lo8_wordOfBytes (lo hi : Byte) : lo8 (wordOfBytes lo hi) = lo := by
  rw [wordOfBytes_eq_append]
  ext i h
  simp [lo8]
  grind

theorem hi8_wordOfBytes (lo hi : Byte) : hi8 (wordOfBytes lo hi) = hi := by
  rw [wordOfBytes_eq_append]
  ext i h
  simp [hi8]
  grind

/-- The length of a slice that lies inside its sequence. -/
theorem slice_length {s : Bytes} {i j : Nat} (h : j ≤ s.length) : (slice s i j).length = j - i := by
  simp [slice]
  omega

/-- A length that fits one byte is the length byte's value. -/
theorem lenByte_toNat {n : Nat} (h : n < 256) : (lenByte n).toNat = n := by
  simp [lenByte]
  omega

end Sys2Proof.Machine
end

