-- ==== Sys2Proof/Laws/Codec.lean ====
section
/-! SUPPORT. The frame's shape, and the form of the codec's responses. -/

namespace Sys2Proof.Machine

/-- What the checksum covers is seven bytes and the payload. -/
@[simp] theorem frameBody_length (version flags src dst opcode : Byte) (payload : Bytes) :
    (frameBody version flags src dst opcode payload).length = payload.length + 7 := by
  simp [frameBody]

/-- A frame is ten bytes and the payload. -/
@[simp] theorem buildFrame_length (version flags src dst opcode : Byte) (payload : Bytes) :
    (buildFrame version flags src dst opcode payload).length = payload.length + 10 := by
  simp [buildFrame, wordBytes]

/-- What FRAME_BUILD answers. -/
theorem buildResponse_cases (version flags src dst opcode : Byte) (payload : Bytes) :
    (247 < payload.length ∧ buildResponse version flags src dst opcode payload = ⟨.payloadTooLarge, none⟩) ∨
    (payload.length ≤ 247 ∧ buildResponse version flags src dst opcode payload =
      ⟨.ok, some (.frame (buildFrame version flags src dst opcode payload))⟩) := by
  unfold buildResponse
  split
  · next h => exact .inl ⟨h, rfl⟩
  · next h => exact .inr ⟨Nat.le_of_not_lt h, rfl⟩

/-- FRAME_PARSE carries a result exactly when every check passes. -/
theorem parseResponse_eq (c : Bytes) :
    parseResponse c = ⟨parseStatus c, if parseStatus c = .ok then some (.parsed (parsedFields c)) else none⟩ := by
  unfold parseResponse
  split
  · next h => simp [h]
  · next h => rw [if_neg h, Response.bare]

/-- The five checks with the constants' values in place. -/
theorem parseStatus_eq (c : Bytes) :
    parseStatus c =
      if c.length < 10 then .frameTooShort
      else if byteAt c 0 ≠ 0xAA#8 then .badSignature
      else if (byteAt c 1).toNat + 2 ≠ c.length then .lengthMismatch
      else if coveredChecksum c ≠ sentChecksum c then .checksumMismatch
      else if (byteAt c 7).toNat ≠ (byteAt c 1).toNat - 8 then .payloadLengthMismatch
      else .ok := rfl

end Sys2Proof.Machine
end

