-- ==== Sys2Proof/Laws/Crc.lean ====
section
/-! SUPPORT. The CRC function: its register form over concatenation, and what one shift does. -/

namespace Sys2Proof.Machine

@[simp] theorem crcFrom_nil (c : Word16) : crcFrom c [] = c := rfl

@[simp] theorem crcFrom_cons (c : Word16) (b : Byte) (s : Bytes) : crcFrom c (b :: s) = crcFrom (crcStep c b) s := rfl

/-- The register over a concatenation goes on from where the first part left it. -/
theorem crcFrom_append (c : Word16) (a b : Bytes) : crcFrom c (a ++ b) = crcFrom (crcFrom c a) b :=
  List.foldl_append

/-- Bit i after one shift: bit i + 1 before it, with bit i of the feedback when bit 0 was 1. -/
theorem crcShift_bit (c : Word16) (i : Nat) :
    (crcShift c).getLsbD i = ((c.getLsbD (i + 1)).xor (c.getLsbD 0 && Config.crcPoly.getLsbD i)) := by
  unfold crcShift
  split <;> rename_i h <;> simp only [BitVec.getLsbD_xor, BitVec.getLsbD_ushiftRight, Nat.add_comm 1 i] <;> simp_all

/-- Two registers with the same shift are the same: bit 15 of the feedback is 1 and a right shift clears bit 15, so bit 15 after
the shift is bit 0 before it. -/
theorem crcShift_injective : Function.Injective crcShift := by
  intro c d h
  have bits (i : Nat) : (crcShift c).getLsbD i = (crcShift d).getLsbD i := by rw [h]
  simp only [crcShift_bit] at bits
  have low : c.getLsbD 0 = d.getLsbD 0 := by
    have top := bits 15
    rw [show Config.crcPoly.getLsbD 15 = true from rfl, BitVec.getLsbD_of_ge c _ (by omega),
      BitVec.getLsbD_of_ge d _ (by omega)] at top
    simpa only [Bool.and_true, Bool.false_bne, Bool.xor_false, Bool.false_xor] using top
  refine BitVec.eq_of_getLsbD_eq fun i _ => ?_
  cases i with
  | zero => exact low
  | succ i =>
    have here := bits i
    rw [low] at here
    exact Bool.xor_right_inj.mp ((Bool.xor_comm _ _).trans (here.trans (Bool.xor_comm _ _)))

end Sys2Proof.Machine
end

