-- ==== Sys2Proof/Laws/Decode.lean ====
section
/-! SUPPORT. What the code map and the operand shapes say, once. -/

namespace Sys2Proof

/-- A code selects a row exactly when it is that row's code. -/
theorem mnemonicOf_eq_some {code : Byte} {m : Mnemonic} : mnemonicOf code = some m ↔ m.code = code := by
  constructor
  · intro h
    simpa using List.find?_some h
  · rintro rfl
    cases m <;> rfl

/-- The operands make an instruction of the row exactly when that instruction has this row and these operands. -/
theorem instrOf_eq_some {m : Mnemonic} {ops : List Operand} {i : Instr} :
    instrOf m ops = some i ↔ i.mnemonic = m ∧ i.operands = ops := by
  constructor
  · intro h
    unfold instrOf at h
    split at h <;> cases h <;> exact ⟨rfl, rfl⟩
  · rintro ⟨rfl, rfl⟩
    cases i <;> rfl

/-- Fitting operands have the shape's kinds, in order. -/
theorem operandsFit_iff {m : Mnemonic} {ops : List Operand} :
    operandsFit m ops = true ↔ ops.map Operand.kind = m.shape := by
  simp [operandsFit]

/-- The operands of an instruction have its row's kinds. -/
theorem operands_kinds (i : Instr) : i.operands.map Operand.kind = i.mnemonic.shape := by
  cases i <;> rfl

end Sys2Proof
end

