-- ==== Sys2Proof/Laws/State.lean ====
section
/-! SUPPORT. Each field under each update, so that no proof unfolds a record update. -/

namespace Sys2Proof.Machine

variable (s : State) (w : Word16) (buf : Bytes) (q : List HostEvent) (e : HostEvent) (st : Status) (r : Option Result)

@[simp] theorem readCrc_eq : readCrc s = s.crc := rfl
@[simp] theorem readRxBuf_eq : readRxBuf s = s.rxBuf := rfl

@[simp] theorem writeCrc_crc : (writeCrc w s).crc = w := rfl
@[simp] theorem writeCrc_rxBuf : (writeCrc w s).rxBuf = s.rxBuf := rfl
@[simp] theorem writeCrc_hostQueue : (writeCrc w s).hostQueue = s.hostQueue := rfl
@[simp] theorem writeCrc_response : (writeCrc w s).response = s.response := rfl

@[simp] theorem writeRxBuf_crc : (writeRxBuf buf s).crc = s.crc := rfl
@[simp] theorem writeRxBuf_rxBuf : (writeRxBuf buf s).rxBuf = buf := rfl
@[simp] theorem writeRxBuf_hostQueue : (writeRxBuf buf s).hostQueue = s.hostQueue := rfl
@[simp] theorem writeRxBuf_response : (writeRxBuf buf s).response = s.response := rfl

@[simp] theorem respond_crc : (respond st r s).crc = s.crc := rfl
@[simp] theorem respond_rxBuf : (respond st r s).rxBuf = s.rxBuf := rfl
@[simp] theorem respond_hostQueue : (respond st r s).hostQueue = s.hostQueue := rfl
@[simp] theorem respond_response : (respond st r s).response = some ⟨st, r⟩ := rfl

@[simp] theorem setQueue_crc : (setQueue q s).crc = s.crc := rfl
@[simp] theorem setQueue_rxBuf : (setQueue q s).rxBuf = s.rxBuf := rfl
@[simp] theorem setQueue_hostQueue : (setQueue q s).hostQueue = q := rfl
@[simp] theorem setQueue_response : (setQueue q s).response = s.response := rfl

@[simp] theorem placeEvent_crc : (placeEvent e s).crc = s.crc := rfl
@[simp] theorem placeEvent_rxBuf : (placeEvent e s).rxBuf = s.rxBuf := rfl
@[simp] theorem placeEvent_hostQueue : (placeEvent e s).hostQueue = e :: s.hostQueue := rfl
@[simp] theorem placeEvent_response : (placeEvent e s).response = s.response := rfl

@[simp] theorem takeReset_crc : (takeReset s).crc = Config.crcInit := rfl
@[simp] theorem takeReset_rxBuf : (takeReset s).rxBuf = [] := rfl
@[simp] theorem takeReset_hostQueue : (takeReset s).hostQueue = s.hostQueue := rfl
@[simp] theorem takeReset_response : (takeReset s).response = none := rfl

/-- Taking back the event just placed gives the state it was placed in. -/
@[simp] theorem setQueue_placeEvent : setQueue s.hostQueue (placeEvent e s) = s := rfl

end Sys2Proof.Machine
end

