-- ==== Sys2Proof/Laws/Framer.lean ====
section
/-! SUPPORT. The extraction loop: what each shape of the buffer makes of it. -/

namespace Sys2Proof.Machine

/-- A first byte that is not the signature is dropped when another byte stands behind it. -/
theorem extract_drop {first : Byte} {rest : Bytes} (h : first ≠ Config.sig) (hr : rest ≠ []) :
    extract (first :: rest) = extract rest := by
  cases rest with
  | nil => exact absurd rfl hr
  | cons second rest => simp [extract, h]

/-- A buffer that opens with the signature waits or is cut, by its second byte. -/
theorem extract_sig (second : Byte) (rest : Bytes) :
    extract (Config.sig :: second :: rest) =
      if rest.length < second.toNat then (Config.sig :: second :: rest, none)
      else (rest.drop second.toNat, some (Config.sig :: second :: rest.take second.toNat)) := by
  by_cases h : rest.length < second.toNat
  · simp [extract, h, Nat.add_comm 2]
  · simp [extract, h, Nat.add_comm 2]

/-- Everything the loop can do: a head of bytes that are not the signature is dropped; what is kept is at most one byte or opens with
the signature, and it waits or is cut. -/
theorem extract_cases (buf : Bytes) :
    ∃ dropped kept, buf = dropped ++ kept ∧ (∀ x ∈ dropped, x ≠ Config.sig) ∧
      ((kept.length ≤ 1 ∧ extract buf = (kept, none)) ∨
       (∃ second rest, kept = Config.sig :: second :: rest ∧ extract buf = extract kept)) := by
  induction buf with
  | nil => exact ⟨[], [], rfl, by simp, .inl ⟨by simp, rfl⟩⟩
  | cons first tail ih =>
    cases tail with
    | nil => exact ⟨[], [first], rfl, by simp, .inl ⟨by simp, rfl⟩⟩
    | cons second rest =>
      by_cases h : first = Config.sig
      · exact ⟨[], first :: second :: rest, rfl, by simp, .inr ⟨second, rest, by rw [h], rfl⟩⟩
      · obtain ⟨dropped, kept, hb, hd, hk⟩ := ih
        refine ⟨first :: dropped, kept, by simp [hb], by simpa [h] using hd, ?_⟩
        rw [extract_drop h (by simp)]
        exact hk

/-- What RX_BYTE answers and leaves, from the loop's outcome. -/
theorem execRxByte_eq (b : Byte) (s : State) :
    execRxByte b s = .next { s with
      rxBuf := (extract (s.rxBuf ++ [b])).1
      response := some (match (extract (s.rxBuf ++ [b])).2 with
        | some cand => ⟨.frameReady, some (.candidate cand)⟩
        | none => ⟨.pending, none⟩) } := by
  unfold execRxByte
  simp only [readRxBuf_eq]
  split <;> next h => simp [h, complete, respond, writeRxBuf]

end Sys2Proof.Machine
end

