-- ==== Sys2Proof/Laws/HostProgram.lean ====
section
/-! SUPPORT. The read-frame call under the host's clock: what each of its parts does, once. -/

namespace Sys2Proof.Machine

variable (timing : HostTiming) (p : Poll) (polls : List Poll) (elapsed : Nat) (s : State)

/-- No read takes longer than `T_BYTE`. -/
theorem Poll.duration_le : p.duration timing ≤ timing.byteTimeout := Nat.min_le_right _ _

@[simp] theorem pollTime_nil : pollTime timing [] = 0 := rfl
@[simp] theorem pollTime_cons : pollTime timing (p :: polls) = p.duration timing + pollTime timing polls := rfl

/-- The command of a read runs RX_BYTE or RX_IDLE, by what the read returned. -/
theorem transact_poll :
    transact (p.command timing) s =
      match p.returned timing with
      | some b => execRxByte b s
      | none => execRxIdle s := by
  unfold Poll.command
  cases p.returned timing <;> rfl

/-- The end of a call always completes: NO_FRAME, and an empty buffer. -/
theorem endCall_eq :
    endCall elapsed s = .next ({ s with rxBuf := [], response := some ⟨.noFrame, none⟩ }, .timedOut elapsed) :=
  rfl

/-- Once the deadline has passed the call ends, whatever reads are left. -/
theorem pollLoop_of_deadline_le (passed : timing.deadline ≤ elapsed) :
    pollLoop timing polls elapsed s = endCall elapsed s := by
  cases polls <;> rw [pollLoop, if_pos passed]

/-- A call opens with RX_BEGIN, at time zero. -/
theorem readFrameTimed_eq :
    readFrameTimed timing polls s = pollLoop timing polls 0 { s with rxBuf := [], response := some ⟨.ok, none⟩ } :=
  rfl

end Sys2Proof.Machine
end

