-- ==== Sys2Proof/Laws/Ops.lean ====
section
/-! SUPPORT. What the shared operations can do, once each: ending a command, delivering one, the step, a transaction. -/

namespace Sys2Proof.Machine

/-- A command's end is a next state: the state as the command left it, with the response in place. -/
theorem complete_eq_next {st : Status} {r : Option Result} {s t : State} :
    complete st r s = .next t ↔ t = respond st r s := by
  simp [complete, eq_comm]

/-- The host's next command, when it is an instruction, runs. -/
theorem deliver_legal {c : Command} {i : Instr} (h : decode c = .legal i) (s : State) : deliver c s = exec i s := by
  simp [deliver, h]

/-- Everything a delivered command can do: run its instruction, answer ILLEGAL_COMMAND, or be refused. -/
theorem deliver_cases (c : Command) (s : State) :
    (∃ i, decode c = .legal i ∧ deliver c s = exec i s) ∨
    (∃ code, decode c = .illegalCode code ∧ deliver c s = .next (respond .illegalCommand none s)) ∨
    (∃ m, decode c = .malformed m ∧ deliver c s = .refused (.malformedOperands m)) := by
  unfold deliver
  cases h : decode c with
  | legal i => exact .inl ⟨i, rfl, rfl⟩
  | illegalCode code => exact .inr (.inl ⟨code, rfl, rfl⟩)
  | malformed m => exact .inr (.inr ⟨m, rfl, rfl⟩)

/-- Everything a step that goes on can have done: idle, reset, an instruction, or an illegal code. -/
theorem step_cases {s t : State} (h : step s = .next t) :
    (s.hostQueue = [] ∧ t = s) ∨
    (∃ rest, s.hostQueue = .reset :: rest ∧ t = takeReset (setQueue rest s)) ∨
    (∃ c rest i, s.hostQueue = .command c :: rest ∧ decode c = .legal i ∧ exec i (setQueue rest s) = .next t) ∨
    (∃ c rest code, s.hostQueue = .command c :: rest ∧ decode c = .illegalCode code ∧
      t = respond .illegalCommand none (setQueue rest s)) := by
  unfold step hostStep at h
  split at h
  · next hq => cases h; exact .inl ⟨hq, rfl⟩
  · next rest hq => cases h; exact .inr (.inl ⟨rest, hq, rfl⟩)
  · next c rest hq =>
    obtain ⟨i, hd, he⟩ | ⟨code, hd, he⟩ | ⟨m, hd, he⟩ := deliver_cases c (setQueue rest s) <;> rw [he] at h
    · exact .inr (.inr (.inl ⟨c, rest, i, hq, hd, h⟩))
    · cases h; exact .inr (.inr (.inr ⟨c, rest, code, hq, hd, rfl⟩))
    · cases h

/-- A transaction delivers its command in the state it is issued in. -/
theorem transact_eq_deliver (c : Command) (s : State) : transact c s = deliver c s := rfl

/-- A run of the machine is the host interface's run. -/
theorem runSteps_eq_run (k : Nat) (s : State) : runSteps k s = Host.Core.run core k s := by
  have next (M : Host.Core) (k : Nat) (s t : M.State) (h : M.step s = .next t) : M.run (k + 1) s = M.run k t := by
    rw [Host.Core.run, h]
  have fault (M : Host.Core) (k : Nat) (s : M.State) (r) (h : M.step s = .fault r) : M.run (k + 1) s = .fault r := by
    rw [Host.Core.run, h]
  have refused (M : Host.Core) (k : Nat) (s : M.State) (r) (h : M.step s = .refused r) :
      M.run (k + 1) s = .refused r := by
    rw [Host.Core.run, h]
  induction k generalizing s with
  | zero => rfl
  | succ k ih =>
    rw [runSteps]
    cases h : step s with
    | next t => exact (ih t).trans (next core k s t h).symm
    | fault r => exact (fault core k s r h).symm
    | refused r => exact (refused core k s r h).symm

end Sys2Proof.Machine
end

