-- ==== Sys2Proof/Laws/PerInstr.lean ====
section
/-! SUPPORT. Statements about every instruction as syntax, one lemma per constructor. -/

namespace Sys2Proof.Laws.Shaped

/-- The instruction is well-formed: its operands fit the shape of its row. -/
def Statement (i : Instr) : Prop := i.wellFormed = true

theorem crcInit : Statement .crcInit := rfl
theorem crcFeed (b : Byte) : Statement (.crcFeed b) := rfl
theorem crcRead : Statement .crcRead := rfl
theorem crcCompute (data : Bytes) : Statement (.crcCompute data) := rfl
theorem frameBuild (version flags src dst opcode : Byte) (payload : Bytes) :
    Statement (.frameBuild version flags src dst opcode payload) := rfl
theorem frameParse (cand : Bytes) : Statement (.frameParse cand) := rfl
theorem rxBegin : Statement .rxBegin := rfl
theorem rxByte (b : Byte) : Statement (.rxByte b) := rfl
theorem rxIdle : Statement .rxIdle := rfl
theorem rxTimeout : Statement .rxTimeout := rfl

end Sys2Proof.Laws.Shaped
end

