-- ==== Sys2Proof/Tests/Slice0.lean ====
section
/-! SUPPORT. The model's own tests. Every expected value is taken from the spec: the encodings of spec/30_encoding.md R81 and
R82, the vectors of spec/95_test_vectors.md, and the examples in the rules of the commands. -/

namespace Sys2Proof.Tests

open Sys2Proof.Machine

/-! ### Well-formedness: an ill-formed command for each way not to fit a shape (R84) -/

theorem test_wf_refuses_missing_operand : operandsFit .crcFeed [] = false := by decide

theorem test_wf_refuses_extra_operand : operandsFit .crcRead [.byte 0x00] = false := by decide

theorem test_wf_refuses_wrong_type : operandsFit .rxByte [.bytes [0xAA]] = false := by decide

theorem test_wf_refuses_short_build :
    operandsFit .frameBuild [.byte 1, .byte 5, .byte 1, .byte 0x20, .bytes []] = false := by decide

/-! ### Decoding: each command delivered with the code byte of R81 and the operands of R82 -/

theorem test_decode_crc :
    decode ⟨0x01, []⟩ = .legal .crcInit ∧ decode ⟨0x02, [.byte 0x08]⟩ = .legal (.crcFeed 0x08) ∧
    decode ⟨0x03, []⟩ = .legal .crcRead ∧ decode ⟨0x04, [.bytes [0x31, 0x32]]⟩ = .legal (.crcCompute [0x31, 0x32]) := by
  decide

theorem test_decode_codec :
    decode ⟨0x10, [.byte 0x01, .byte 0x05, .byte 0x02, .byte 0x20, .byte 0x21, .bytes [0x42]]⟩ =
      .legal (.frameBuild 0x01 0x05 0x02 0x20 0x21 [0x42]) ∧
    decode ⟨0x20, [.bytes [0xAA, 0x08]]⟩ = .legal (.frameParse [0xAA, 0x08]) := by
  decide

theorem test_decode_framer :
    decode ⟨0x30, []⟩ = .legal .rxBegin ∧ decode ⟨0x31, [.byte 0xAA]⟩ = .legal (.rxByte 0xAA) ∧
    decode ⟨0x32, []⟩ = .legal .rxIdle ∧ decode ⟨0x33, []⟩ = .legal .rxTimeout := by
  decide

theorem test_decode_illegal_before_operands : decode ⟨0x77, [.byte 1]⟩ = .illegalCode 0x77 := by decide

theorem test_decode_malformed : decode ⟨0x31, []⟩ = .malformed .rxByte := by decide

/-- The ten table words, numbered as spec/opcode_table.json numbers them, and a word of no row. -/
theorem test_table_words :
    [0x01, 0x02, 0x03, 0x04, 0x10, 0x20, 0x30, 0x31, 0x32, 0x33, 0x34].map (decodeTableWord 8) =
      [some .crcInit, some (.crcFeed 0), some .crcRead, some (.crcCompute []), some (.frameBuild 0 0 0 0 0 []),
        some (.frameParse []), some .rxBegin, some (.rxByte 0), some .rxIdle, some .rxTimeout, none] := by
  decide

/-- A table word placed after reset runs at the next step: CRC_FEED 0x00 makes 0xFFFF into 0x40BF (R105). -/
theorem test_table_word_runs :
    (nextOf (step (State.reset.withFetchWord 8 0x02))).map (·.crc) = some 0x40BF := by decide

/-! ### The CRC unit -/

/-- V4's end, and the step values of V6. -/
theorem test_crc_step :
    crcStep 0xFFFF 0x08 = 0x86BE ∧ crcStep 0 0 = 0 ∧ crcStep 0 0x01 = 0xC0C1 ∧ crcStep 0 0x80 = 0xA001 ∧
    crcStep 0 0xFF = 0x4040 ∧ crcStep 0xFFFF 0x42 = 0x713F := by decide +kernel

/-- V4's first two shifts: from 0xFFF7, bit 1 out, then bit 0 out. -/
theorem test_crc_shift : crcShift 0xFFF7 = 0xDFFA ∧ crcShift 0xDFFA = 0x6FFD := by decide

/-- R103, and the check value over ASCII 123456789. -/
theorem test_crc16_corners :
    crc16 [] = 0xFFFF ∧ crc16 [0x00] = 0x40BF ∧ crc16 [0xFF] = 0x00FF ∧ crc16 [0xFF, 0xFF] = 0x0000 ∧
    crc16 [0x31, 0x32, 0x33, 0x34, 0x35, 0x36, 0x37, 0x38, 0x39] = 0x4B37 := by decide +kernel

/-- R104's example. -/
theorem test_crcInit :
    (nextOf (exec .crcInit { State.reset with crc := 0x1234 })).map (·.crc) = some 0xFFFF := by decide

/-- V7's second byte. -/
theorem test_crcFeed :
    (nextOf (exec (.crcFeed 0x01) { State.reset with crc := 0x86BE })).map (·.crc) = some 0xB0C7 := by decide

/-- R106: the read answers the register and leaves it. -/
theorem test_crcRead :
    nextOf (exec .crcRead { State.reset with crc := 0x40BF }) =
      some { State.reset with crc := 0x40BF, response := some ⟨.ok, some (.value 0x40BF)⟩ } := by decide

/-- V8: CRC_COMPUTE [00] answers 0x40BF and leaves 0x1491 in the register. -/
theorem test_crcCompute :
    nextOf (exec (.crcCompute [0x00]) { State.reset with crc := 0x1491 }) =
      some { State.reset with crc := 0x1491, response := some ⟨.ok, some (.value 0x40BF)⟩ } := by decide

/-! ### The codec -/

/-- V25. -/
theorem test_frameBuild :
    buildResponse 0x01 0x05 0x01 0x20 0x21 [0x42] =
      ⟨.ok, some (.frame [0xAA, 0x09, 0x01, 0x05, 0x01, 0x20, 0x21, 0x01, 0x42, 0x77, 0x5F])⟩ := by decide +kernel

/-- V29: 248 payload bytes are too many. -/
theorem test_frameBuild_too_large :
    (nextOf (exec (.frameBuild 0 0 0 0 0 (List.replicate 248 0)) State.reset)).map (·.response) =
      some (some ⟨.payloadTooLarge, none⟩) := by decide +kernel

/-- V26, taken apart: every field from its own place. -/
theorem test_frameParse :
    (nextOf (exec (.frameParse [0xAA, 0x0B, 0x00, 0x00, 0x00, 0x00, 0x00, 0x03, 0x41, 0x42, 0x43, 0x20, 0xE3])
        State.reset)).map (·.response) =
      some (some ⟨.ok, some (.parsed ⟨0, 0, 0, 0, 0, 3, [0x41, 0x42, 0x43]⟩)⟩) := by decide +kernel

/-- V30 (fields of different values), V31, V33, V34, V35, V38, V39, V40: each check, in its place in the order. -/
theorem test_frameParse_checks :
    parseResponse [0xAA, 0x08, 0x01, 0x05, 0x01, 0x20, 0x01, 0x00, 0x5E, 0xB7] =
      ⟨.ok, some (.parsed ⟨0x01, 0x05, 0x01, 0x20, 0x01, 0x00, []⟩)⟩ ∧
    parseStatus [0xAA, 0x08, 0x01, 0x05, 0x01, 0x20, 0x01, 0x00, 0x5E] = .frameTooShort ∧
    parseStatus (List.replicate 9 0) = .frameTooShort ∧
    parseStatus [0x55, 0x08, 0x01, 0x05, 0x01, 0x20, 0x01, 0x00, 0x5E, 0xB7] = .badSignature ∧
    parseStatus [0xAA, 0x08, 0x01, 0x05, 0x01, 0x20, 0x01, 0x00, 0x5E, 0xB7, 0x00] = .lengthMismatch ∧
    parseStatus [0xAA, 0x08, 0x01, 0x05, 0x01, 0x20, 0x01, 0x00, 0xB7, 0x5E] = .checksumMismatch ∧
    parseStatus [0xAA, 0x09, 0x01, 0x05, 0x01, 0x20, 0x01, 0x00, 0x42, 0x77, 0x05] = .payloadLengthMismatch ∧
    parseStatus [0xAA, 0x08, 0x01, 0x05, 0x01, 0x20, 0x01, 0x05, 0x5E, 0xB7] = .checksumMismatch := by decide +kernel

/-! ### The framer -/

/-- R171's example. -/
theorem test_rxBegin :
    (nextOf (exec .rxBegin { State.reset with rxBuf := [0xAA, 0x08, 0x01] })).map (·.rxBuf) = some [] := by decide

/-- V53b: the noise byte is dropped when the next byte comes. -/
theorem test_rxByte_drops :
    nextOf (exec (.rxByte 0xAA) { State.reset with rxBuf := [0x55] }) =
      some { State.reset with rxBuf := [0xAA], response := some ⟨.pending, none⟩ } := by decide

/-- V54's first candidate: its fifth byte completes it. -/
theorem test_rxByte_ready :
    nextOf (exec (.rxByte 0x33) { State.reset with rxBuf := [0xAA, 0x03, 0x11, 0x22] }) =
      some { State.reset with response := some ⟨.frameReady, some (.candidate [0xAA, 0x03, 0x11, 0x22, 0x33])⟩ } := by
  decide

/-- R182's example. -/
theorem test_rxIdle :
    nextOf (exec .rxIdle { State.reset with rxBuf := [0xAA, 0x08] }) =
      some { State.reset with rxBuf := [0xAA, 0x08], response := some ⟨.pending, none⟩ } := by decide

/-- R184's example. -/
theorem test_rxTimeout :
    nextOf (exec .rxTimeout { State.reset with rxBuf := [0xAA, 0x08, 0x01] }) =
      some { State.reset with response := some ⟨.noFrame, none⟩ } := by decide

/-! ### The step -/

/-- Program 3, command 10: 0x77 is illegal and changes nothing. -/
theorem test_step_illegal :
    nextOf (step { State.reset with crc := 0x1491, hostQueue := [.command ⟨0x77, []⟩] }) =
      some { State.reset with crc := 0x1491, response := some ⟨.illegalCommand, none⟩ } := by decide

/-- R230: the reset input. -/
theorem test_step_reset :
    nextOf (step { crc := 0x1491, rxBuf := [0xAA], hostQueue := [.reset], response := some ⟨.ok, none⟩ }) =
      some State.reset := by decide

/-! ### The host's side -/

/-- R86's syntax: a labelled command, a text, a comment, and a number that is no byte. -/
theorem test_assemble :
    assembleLine "FRAME_BUILD version=0x01, flags=5, src=0x01, dst=0x20, opcode=0x01, payload=[]".toList =
      .command (encode (.frameBuild 1 5 1 0x20 1 [])) ∧
    assembleLine "CRC_COMPUTE \"123\" ; check".toList = .command (encode (.crcCompute [0x31, 0x32, 0x33])) ∧
    assembleLine "FRAME_PARSE [0xAA, 0x08]".toList = .command (encode (.frameParse [0xAA, 0x08])) ∧
    assembleLine "RX_BYTE 256".toList = .bad := by decide +kernel

/-- Program 2 (RECV through noise, k = 2): the pong V21 is parsed. -/
theorem test_recv :
    (nextOf (recv [0xFF, 0xFF, 0xAA, 0x08, 0x01, 0x01, 0x20, 0x01, 0x01, 0x00, 0xF5, 0x41] State.reset)).map
        (·.response) =
      some (some ⟨.ok, some (.parsed ⟨0x01, 0x01, 0x20, 0x01, 0x01, 0x00, []⟩)⟩) := by decide +kernel

/-- A source that is ready only after 9, under a deadline of 5 and a byte timeout of 2: each read ends empty at 2, and the host issues
RX_TIMEOUT at 6 (R5, R183, R187). -/
theorem test_readFrameTimed :
    (nextOf (readFrameTimed ⟨5, 2, by decide⟩ (List.replicate 4 ⟨9, some 0xAA⟩) State.reset)).map (fun r => (r.1.response, r.2)) =
      some (some ⟨.noFrame, none⟩, .timedOut 6) := by decide

/-! ### Witnesses: for each statement with hypotheses, values that meet all of them, at the bounds where there are any -/

/-- V20, the frame of the source's example. -/
def ping : Bytes := [0xAA, 0x08, 0x01, 0x05, 0x01, 0x20, 0x01, 0x00, 0x5E, 0xB7]

/-- After reset, with these events to come. -/
def queued (q : List HostEvent) : State := { State.reset with hostQueue := q }

/-- After reset, with these bytes received. -/
def holding (buf : Bytes) : State := { State.reset with rxBuf := buf }

/-- V20 is built. -/
theorem ping_is_built :
    ∃ t, exec (.frameBuild 0x01 0x05 0x01 0x20 0x01 []) State.reset = .next t ∧
      t.response = some ⟨.ok, some (.frame ping)⟩ :=
  ⟨_, rfl, by decide +kernel⟩

theorem witness_ResetInputClearsTheBlock : (queued [.reset]).hostQueue = .reset :: [] := rfl

theorem witness_IdleBlockKeepsItsState : State.reset.hostQueue = [] := rfl

theorem witness_StepRunsTheDecodedCommand :
    (queued [.command ⟨0x03, []⟩]).hostQueue = .command ⟨0x03, []⟩ :: [] ∧ decode ⟨0x03, []⟩ = .legal .crcRead := by
  decide

/-- The ends of each range of R83, and that the legal codes beside them are in none. -/
theorem witness_IllegalCodesReturnIllegalCommand :
    (queued [.command ⟨0x00, [.byte 7]⟩]).hostQueue = .command ⟨0x00, [.byte 7]⟩ :: [] ∧
    (∀ code ∈ ([0x00, 0x05, 0x0F, 0x11, 0x1F, 0x21, 0x2F, 0x34, 0xFF] : List Byte),
      code = 0x00 ∨ (0x05 ≤ code ∧ code ≤ 0x0F) ∨ (0x11 ≤ code ∧ code ≤ 0x1F) ∨ (0x21 ≤ code ∧ code ≤ 0x2F) ∨ 0x34 ≤ code) ∧
    (∀ code ∈ ([0x01, 0x04, 0x10, 0x20, 0x30, 0x33] : List Byte),
      ¬(code = 0x00 ∨ (0x05 ≤ code ∧ code ≤ 0x0F) ∨ (0x11 ≤ code ∧ code ≤ 0x1F) ∨ (0x21 ≤ code ∧ code ≤ 0x2F) ∨
        0x34 ≤ code)) := by
  decide

theorem witness_MisshapenCommandsAreRefused :
    (queued [.command ⟨Mnemonic.rxByte.code, []⟩]).hostQueue = .command ⟨Mnemonic.rxByte.code, []⟩ :: [] ∧
    ([] : List Operand).map Operand.kind ≠ Mnemonic.rxByte.shape ∧
    [Operand.byte 0xFF].map Operand.kind = Mnemonic.rxByte.shape := by
  decide

theorem witness_CrcInitStartsFromFFFF :
    (∃ t, exec .crcInit (holding [0xAA]) = .next t) ∧ ∃ t, exec .crcInit .reset = .next t :=
  ⟨⟨_, rfl⟩, ⟨_, rfl⟩⟩

theorem witness_CrcFeedStepsTheRegister :
    ∃ t u, exec (.crcFeed 0x08) State.reset = .next t ∧ exec (.crcFeed 0x01) t = .next u :=
  ⟨_, _, rfl, rfl⟩

theorem witness_CrcReadReturnsTheRegister :
    ∃ t u, exec .crcInit State.reset = .next t ∧ exec (.crcFeed 0x00) t = .next u :=
  ⟨_, _, rfl, rfl⟩

theorem witness_SingleBitChangesCrc16 : 0 < ([0x00] : Bytes).length ∧ 7 < 8 := by decide

theorem witness_CrcCanBeContinued : State.reset.crc = crc16 [] := rfl

/-- The two sides of the payload bound. -/
theorem witness_FrameBuildSerializes :
    (List.replicate 247 (0 : Byte)).length ≤ 247 ∧ 247 < (List.replicate 248 (0 : Byte)).length := by
  decide +kernel

theorem witness_LongPayloadIsRejected :
    ∃ t, exec (.frameBuild 0 0 0 0 0 (List.replicate 248 0)) State.reset = .next t :=
  ⟨_, rfl⟩

/-- The checksum a candidate carries, and the recomputed one, as FrameParseChecksInOrder writes them. -/
def checksums (c : Bytes) : Word16 × Word16 :=
  (c.getD (c.length - 1) 0 ++ c.getD (c.length - 2) 0, crc16 ((c.drop 1).take (c.length - 3)))

/-- One candidate for each clause: 9 and 10 bytes; 11 bytes that say 10; a swapped checksum (V38); V39; V30; 258 bytes; a length byte
of 7. -/
theorem witness_FrameParseChecksInOrder :
    (ping.take 9).length < 10 ∧
    (10 ≤ (0x55 :: ping.drop 1).length ∧ (0x55 :: ping.drop 1).getD 0 0 ≠ 0xAA) ∧
    (10 ≤ (ping ++ [0]).length ∧ (ping ++ [0]).getD 0 0 = 0xAA ∧
      ((ping ++ [0]).getD 1 0).toNat + 2 ≠ (ping ++ [0]).length) ∧
    (∀ c ∈ ([ping.take 8 ++ [0xB7, 0x5E]] : List Bytes), 10 ≤ c.length ∧ c.getD 0 0 = 0xAA ∧
      (c.getD 1 0).toNat + 2 = c.length ∧ (checksums c).2 ≠ (checksums c).1) ∧
    (∀ c ∈ ([[0xAA, 0x09, 0x01, 0x05, 0x01, 0x20, 0x01, 0x00, 0x42, 0x77, 0x05]] : List Bytes), 10 ≤ c.length ∧
      c.getD 0 0 = 0xAA ∧ (c.getD 1 0).toNat + 2 = c.length ∧ (checksums c).2 = (checksums c).1 ∧
      (c.getD 7 0).toNat ≠ (c.getD 1 0).toNat - 8) ∧
    (10 ≤ ping.length ∧ ping.getD 0 0 = 0xAA ∧ (ping.getD 1 0).toNat + 2 = ping.length ∧
      (checksums ping).2 = (checksums ping).1 ∧ (ping.getD 7 0).toNat = (ping.getD 1 0).toNat - 8) ∧
    257 < (List.replicate 258 (0xAA : Byte)).length ∧
    (∀ c ∈ ([[0xAA, 0x07, 0, 0, 0, 0, 0, 0, 0, 0]] : List Bytes), 10 ≤ c.length ∧ (c.getD 1 0).toNat ≤ 7) := by
  decide +kernel

theorem witness_ParseInvertsBuild : (List.replicate 247 (0xAA : Byte)).length ≤ 247 := by decide +kernel

theorem witness_AcceptedCandidatesAreBuiltFrames :
    ∃ t, exec (.frameParse ping) State.reset = .next t ∧
      t.response = some ⟨.ok, some (.parsed ⟨0x01, 0x05, 0x01, 0x20, 0x01, 0x00, []⟩)⟩ :=
  ⟨_, rfl, by decide +kernel⟩

theorem short_payload_is_built (payload : Bytes) (short : ¬ Config.maxPayload < payload.length) :
    ∃ t, exec (.frameBuild 0 0 0 0 0 payload) State.reset = .next t ∧
      t.response = some ⟨.ok, some (.frame (buildFrame 0 0 0 0 0 payload))⟩ :=
  ⟨_, rfl, by
    change some (buildResponse 0 0 0 0 0 payload) = _
    rw [buildResponse, if_neg short]⟩

/-- The shortest frame, and the longest. -/
theorem witness_BuiltFramesKeepTheLayout :
    (∃ t, exec (.frameBuild 0x01 0x05 0x01 0x20 0x01 []) State.reset = .next t ∧
      t.response = some ⟨.ok, some (.frame ping)⟩) ∧
    ∃ t f, exec (.frameBuild 0 0 0 0 0 (List.replicate 247 0)) State.reset = .next t ∧
      t.response = some ⟨.ok, some (.frame f)⟩ := by
  obtain ⟨t, built, answered⟩ :=
    short_payload_is_built (List.replicate 247 0) (by rw [List.length_replicate]; decide)
  exact ⟨ping_is_built, t, _, built, answered⟩

/-- The first, the second, the third and the last byte of the frame, the lowest and the highest bit. -/
theorem witness_SingleBitErrorsAreCaught :
    ∃ t, exec (.frameBuild 0x01 0x05 0x01 0x20 0x01 []) State.reset = .next t ∧
      t.response = some ⟨.ok, some (.frame ping)⟩ ∧ (0 < ping.length ∧ 0 < 8) ∧ (1 < ping.length ∧ 7 < 8) ∧
      (2 < ping.length ∧ 0 < 8) ∧ (9 < ping.length ∧ 7 < 8) := by
  obtain ⟨t, built, answered⟩ := ping_is_built
  exact ⟨t, built, answered, by decide⟩

theorem witness_RxIdleChangesNothing : ∃ t, exec .rxIdle (holding [0xAA, 0x08]) = .next t := ⟨_, rfl⟩

/-- What is kept one byte short of what it needs, and long enough, and a byte that is no signature. -/
theorem witness_RxByteResynchronizesAndExtracts :
    (([0xAA, 0x01] : Bytes).length < 2 + (([0xAA, 0x01] : Bytes).getD 1 0).toNat) ∧
    (2 + (([0xAA, 0x00] : Bytes).getD 1 0).toNat ≤ ([0xAA, 0x00] : Bytes).length) ∧
    (([0x55] : Bytes).length < 2 + (([0x55] : Bytes).getD 1 0).toNat) := by
  decide

theorem witness_EveryStepKeepsTheFramerInvariant :
    ∃ t, State.Inv { queued [.command ⟨0x31, [.byte 0x00]⟩] with rxBuf := [0xAA] } ∧
      step { queued [.command ⟨0x31, [.byte 0x00]⟩] with rxBuf := [0xAA] } = .next t :=
  ⟨_, by decide, rfl⟩

/-- The longest buffer the invariant allows: 256 bytes of a 257-byte candidate. -/
theorem witness_FramerInvariantBoundsTheBuffer :
    (holding (0xAA :: 0xFF :: List.replicate 254 0)).Inv ∧
      (holding (0xAA :: 0xFF :: List.replicate 254 0)).rxBuf.length = 256 := by
  decide +kernel

theorem witness_CandidateIsTheWholeBuffer :
    ∃ t, (holding [0xAA]).Inv ∧ exec (.rxByte 0x00) (holding [0xAA]) = .next t ∧
      t.response = some ⟨.frameReady, some (.candidate [0xAA, 0x00])⟩ :=
  ⟨_, by decide, rfl, by decide⟩

theorem witness_FramerResynchronizes :
    ∃ t, exec (.frameBuild 0x01 0x05 0x01 0x20 0x01 []) State.reset = .next t ∧
      t.response = some ⟨.ok, some (.frame ping)⟩ ∧ (∀ x ∈ ([0x00, 0x13] : Bytes), x ≠ 0xAA) ∧ State.reset.rxBuf = [] := by
  obtain ⟨t, built, answered⟩ := ping_is_built
  exact ⟨t, built, answered, by decide⟩

theorem witness_RecvReturnsTheBuiltFields :
    ∃ t, exec (.frameBuild 0x01 0x05 0x01 0x20 0x01 []) State.reset = .next t ∧
      t.response = some ⟨.ok, some (.frame ping)⟩ ∧ (∀ x ∈ ([0xFF, 0xFF, 0xFF] : Bytes), x ≠ 0xAA) := by
  obtain ⟨t, built, answered⟩ := ping_is_built
  exact ⟨t, built, answered, by decide⟩

theorem witness_NoSignatureNoCandidate : (∀ x ∈ ([0x01, 0x02, 0x03] : Bytes), x ≠ 0xAA) ∧ State.reset.rxBuf = [] := by
  decide

theorem witness_EndedCallLeavesTheBufferEmpty :
    (∃ t r, (holding [0xAA]).Inv ∧ exec (.rxByte 0x00) (holding [0xAA]) = .next t ∧ t.response = some r ∧
      r.status = .frameReady) ∧
    ∃ t, exec .rxTimeout (holding [0xAA, 0x08]) = .next t :=
  ⟨⟨_, _, by decide, rfl, rfl, by decide⟩, ⟨_, rfl⟩⟩

theorem witness_NoiseSignatureSwallowsTheFrame :
    ∃ t, exec (.frameBuild 0x01 0x05 0x01 0x20 0x01 []) State.reset = .next t ∧
      t.response = some ⟨.ok, some (.frame ping)⟩ ∧ ping.length < 171 ∧ State.reset.rxBuf = [] := by
  obtain ⟨t, built, answered⟩ := ping_is_built
  exact ⟨t, built, answered, by decide⟩

theorem witness_EveryCommandReturnsOneResponse :
    (queued [.command ⟨0x77, [.byte 1]⟩]).hostQueue = .command ⟨0x77, [.byte 1]⟩ :: [] ∧
    Command.accepted ⟨0x77, [.byte 1]⟩ = true ∧ Command.accepted ⟨0x31, [.byte 1]⟩ = true := by
  decide

theorem witness_BehavedHostNeverMeetsAStop : (queued [.command ⟨0x30, []⟩, .reset, .command ⟨0x77, []⟩]).HostBehaves := by
  decide

theorem witness_FailuresChangeNothing :
    ∃ t r, (queued [.command ⟨0x77, []⟩]).hostQueue = .command ⟨0x77, []⟩ :: [] ∧
      step (queued [.command ⟨0x77, []⟩]) = .next t ∧ t.response = some r ∧ r.status.failing = true :=
  ⟨_, _, rfl, rfl, rfl, rfl⟩

theorem witness_ResponseDependsOnBlockStateAlone :
    State.reset.crc = (queued [.reset]).crc ∧ State.reset.rxBuf = (queued [.reset]).rxBuf := by
  decide

theorem witness_OnlyTheirOwnCommandsWriteEachPart :
    (∃ t, exec (.crcFeed 0) State.reset = .next t ∧ t.crc ≠ State.reset.crc) ∧
    ∃ t, exec (.rxByte 0) State.reset = .next t ∧ t.rxBuf ≠ State.reset.rxBuf :=
  ⟨⟨_, rfl, by decide⟩, ⟨_, rfl, by decide⟩⟩

theorem witness_CommandsIgnoreThePartTheyDoNotUse : usesCrc (.rxByte 0) = false ∧ usesRxBuf (.crcFeed 0) = false := by decide

theorem witness_UnitsMayBeInterleaved :
    (usesCrc (.crcFeed 0) && usesCrc (.rxByte 0)) = false ∧ (usesRxBuf (.crcFeed 0) && usesRxBuf (.rxByte 0)) = false := by
  decide

theorem witness_RepeatingChangesNothingMore : repeatable .rxTimeout = true := by decide

theorem witness_ReadFrameWithoutSignatureFindsNone : ∀ x ∈ ([0x01, 0xFF] : Bytes), x ≠ 0xAA := by decide

/-- The two clauses at their boundary: polls that reach the deadline exactly, and polls that end one short of it. The second poll is
ready exactly at the byte timeout, and the third is cut at it, its signature unread. -/
theorem witness_DeadlineIsRespected :
    (∀ p ∈ ([⟨1, none⟩, ⟨2, some 0x55⟩, ⟨3, some 0xAA⟩] : List Poll), p.returned ⟨5, 2, by decide⟩ ≠ some 0xAA) ∧
    5 ≤ pollTime ⟨5, 2, by decide⟩ [⟨1, none⟩, ⟨2, some 0x55⟩, ⟨3, some 0xAA⟩] ∧
    pollTime ⟨5, 2, by decide⟩ [⟨2, some 0x55⟩, ⟨3, some 0xAA⟩] < 5 := by
  decide

/-- Each way a call can stand, within its bounds: ready at 5 (the last byte is read before the deadline check), timed out at 6,
waiting at 4. -/
theorem witness_ReadFrameCallEndsInTime :
    (nextOf (readFrameTimed ⟨5, 2, by decide⟩ [⟨2, none⟩, ⟨1, some 0xAA⟩, ⟨2, some 0x00⟩] State.reset)).map (·.2) =
      some (.ready 5) ∧
    (nextOf (readFrameTimed ⟨5, 2, by decide⟩ [⟨2, none⟩, ⟨2, none⟩, ⟨2, none⟩] State.reset)).map (·.2) = some (.timedOut 6) ∧
    (nextOf (readFrameTimed ⟨5, 2, by decide⟩ [⟨2, none⟩, ⟨2, none⟩] State.reset)).map (·.2) = some (.waiting 4) := by
  decide

end Sys2Proof.Tests
end

section
/-! SUPPORT. What a command does to the block as three functions of the command, its operands, `crc` and `rx_buf` (R9, R21, R22):
the register it leaves, the buffer it leaves, and its response. -/

namespace Sys2Proof.Machine

/-- The register a command leaves: only CRC_INIT and CRC_FEED set it (R104, R105). -/
def crcAfter : Instr → Word16 → Word16
  | .crcInit, _ => Config.crcInit
  | .crcFeed b, crc => crcStep crc b
  | _, crc => crc

/-- The buffer a command leaves: only RX_BEGIN, RX_BYTE and RX_TIMEOUT set it (R171, R172, R184). -/
def rxBufAfter : Instr → Bytes → Bytes
  | .rxBegin, _ => []
  | .rxByte b, buf => (extract (buf ++ [b])).1
  | .rxTimeout, _ => []
  | _, buf => buf

/-- The response a command returns (R201): `crc` enters CRC_READ's alone, and `rx_buf` RX_BYTE's alone. -/
def responseTo : Instr → Word16 → Bytes → Response
  | .crcInit, _, _ => ⟨.ok, none⟩
  | .crcFeed _, _, _ => ⟨.ok, none⟩
  | .crcRead, crc, _ => ⟨.ok, some (.value crc)⟩
  | .crcCompute data, _, _ => ⟨.ok, some (.value (crc16 data))⟩
  | .frameBuild version flags src dst opcode payload, _, _ => buildResponse version flags src dst opcode payload
  | .frameParse cand, _, _ => parseResponse cand
  | .rxBegin, _, _ => ⟨.ok, none⟩
  | .rxByte b, _, buf =>
    match (extract (buf ++ [b])).2 with
    | some cand => ⟨.frameReady, some (.candidate cand)⟩
    | none => ⟨.pending, none⟩
  | .rxIdle, _, _ => ⟨.pending, none⟩
  | .rxTimeout, _, _ => ⟨.noFrame, none⟩

/-- Every instruction completes (R200), and its three functions say all it does: the rest of the state stays as it was. -/
theorem exec_eq (i : Instr) (s : State) :
    exec i s = .next { s with
      crc := crcAfter i s.crc
      rxBuf := rxBufAfter i s.rxBuf
      response := some (responseTo i s.crc s.rxBuf) } := by
  cases i with
  | rxByte b => exact execRxByte_eq b s
  | crcInit | crcFeed | crcRead | crcCompute | frameBuild | frameParse | rxBegin | rxIdle | rxTimeout => rfl

/-- Settles O43: the witnesses are the command's three functions at the `crc` and `rx_buf` the two states share. -/
theorem responseDependsOnBlockStateAlone : Obligations.ResponseDependsOnBlockStateAlone := by
  intro i s u hcrc hbuf
  refine ⟨crcAfter i s.crc, rxBufAfter i s.rxBuf, responseTo i s.crc s.rxBuf, exec_eq i s, ?_⟩
  rw [hcrc, hbuf]
  exact exec_eq i u

end Sys2Proof.Machine
end

section
/-! RESET. The values the block's two registers take at reset (R31). -/

namespace Sys2Proof.Machine

/-- CRC_INIT as the spec writes the constant (R31, D16). -/
theorem crcInit_eq : Config.crcInit = 0xFFFF := rfl

@[simp] theorem reset_crc : State.reset.crc = Config.crcInit := rfl
@[simp] theorem reset_rxBuf : State.reset.rxBuf = [] := rfl

/-- Settles O1: the register's reset value is the constant CRC_INIT, and the buffer starts empty. -/
theorem resetValues : Obligations.ResetValues :=
  ⟨reset_crc.trans crcInit_eq, reset_rxBuf⟩

end Sys2Proof.Machine
end

section
/-! ENCODING. What the decoder answers for an instruction's own command and for a code in no row of the command map (R81 to R83),
and the step that delivers a command. -/

namespace Sys2Proof

/-- Decoding an instruction's command gives the instruction back. -/
@[simp] theorem decode_encode (i : Instr) : decode (encode i) = .legal i := by
  have row : mnemonicOf (encode i).code = some i.mnemonic := mnemonicOf_eq_some.mpr rfl
  have operands : instrOf i.mnemonic (encode i).operands = some i := instrOf_eq_some.mpr ⟨rfl, rfl⟩
  simp only [decode, row, operands]

/-- A code selects no row exactly when it is no row's code. -/
theorem mnemonicOf_eq_none {code : Byte} : mnemonicOf code = none ↔ ∀ m : Mnemonic, m.code ≠ code := by
  simp only [Option.eq_none_iff_forall_ne_some, ne_eq, mnemonicOf_eq_some]

/-- A code of no row makes the command illegal before its operands are looked at (R203). -/
theorem decode_of_no_row {c : Command} (h : ∀ m : Mnemonic, m.code ≠ c.code) : decode c = .illegalCode c.code := by
  simp only [decode, mnemonicOf_eq_none.mpr h]

/-- R83's list of the illegal codes. -/
def OutsideTheMap (code : Byte) : Prop :=
  code = 0x00 ∨ (0x05 ≤ code ∧ code ≤ 0x0F) ∨ (0x11 ≤ code ∧ code ≤ 0x1F) ∨ (0x21 ≤ code ∧ code ≤ 0x2F) ∨ 0x34 ≤ code

/-- No row of the command map has a code of R83's list. -/
theorem code_not_outsideTheMap (m : Mnemonic) : ¬ OutsideTheMap m.code := by
  unfold OutsideTheMap
  cases m <;> decide

/-- Settles O8: each word is the encoding of its instruction. -/
theorem commandMapDecodes : Obligations.CommandMapDecodes :=
  ⟨decode_encode .crcInit,
    decode_encode (.crcFeed 0x5A),
    decode_encode .crcRead,
    decode_encode (.crcCompute [0x31, 0x32, 0x33]),
    decode_encode (.frameBuild 1 2 3 4 5 [6, 7]),
    decode_encode (.frameParse [0xAA, 0x08]),
    decode_encode .rxBegin,
    decode_encode (.rxByte 0xAA),
    decode_encode .rxIdle,
    decode_encode .rxTimeout⟩

namespace Machine

/-- A step whose next event is a command delivers it, with the event off the queue. -/
theorem step_command {s : State} {c : Command} {rest : List HostEvent} (hq : s.hostQueue = .command c :: rest) :
    step s = deliver c (setQueue rest s) := by
  simp only [step, hostStep, hq]

/-- A command of an illegal code is answered ILLEGAL_COMMAND, and the block's state stays (R205). -/
theorem deliver_illegalCode {c : Command} {code : Byte} (h : decode c = .illegalCode code) (s : State) :
    deliver c s = .next (respond .illegalCommand none s) := by
  simp only [deliver, h, takeIllegalCommand, complete]

/-- Settles O5: a listed code is no row's, so the command is of an illegal code whatever its operands. -/
theorem illegalCodesReturnIllegalCommand : Obligations.IllegalCodesReturnIllegalCommand := by
  intro s code ops rest hq outside
  have noRow : ∀ m : Mnemonic, m.code ≠ code := by
    rintro m rfl
    exact code_not_outsideTheMap m outside
  calc step s = deliver ⟨code, ops⟩ (setQueue rest s) := step_command hq
    _ = .next (respond .illegalCommand none (setQueue rest s)) := deliver_illegalCode (decode_of_no_row noRow) _

end Machine

end Sys2Proof
end

section
/-! THE CRC UNIT. What each of the four CRC commands does in every state (R104 to R107), and CRC16 over a sequence that grows at its
end (R101). -/

namespace Sys2Proof.Machine

/-- The register after a command that completed. -/
theorem crc_of_exec {i : Instr} {s t : State} (h : exec i s = .next t) : t.crc = crcAfter i s.crc := by
  rw [exec_eq] at h
  cases h
  rfl

/-- The buffer after a command that completed. -/
theorem rxBuf_of_exec {i : Instr} {s t : State} (h : exec i s = .next t) : t.rxBuf = rxBufAfter i s.rxBuf := by
  rw [exec_eq] at h
  cases h
  rfl

theorem exec_crcInit (s : State) :
    exec .crcInit s = .next { s with crc := 0xFFFF, response := some ⟨.ok, none⟩ } :=
  exec_eq .crcInit s

theorem exec_crcFeed (b : Byte) (s : State) :
    exec (.crcFeed b) s = .next { s with crc := crcStep s.crc b, response := some ⟨.ok, none⟩ } :=
  exec_eq (.crcFeed b) s

theorem exec_crcRead (s : State) :
    exec .crcRead s = .next { s with response := some ⟨.ok, some (.value s.crc)⟩ } :=
  exec_eq .crcRead s

/-- CRC_READ where the register's value is known. -/
theorem exec_crcRead_of_crc {s : State} {w : Word16} (h : s.crc = w) :
    exec .crcRead s = .next { s with response := some ⟨.ok, some (.value w)⟩ } := by
  rw [exec_crcRead, h]

theorem exec_crcCompute (data : Bytes) (s : State) :
    exec (.crcCompute data) s = .next { s with response := some ⟨.ok, some (.value (crc16 data))⟩ } :=
  exec_eq (.crcCompute data) s

/-- R105's example: the byte 0x00 after CRC_INIT. -/
theorem crcStep_crcInit_zero : crcStep 0xFFFF 0x00 = 0x40BF := by decide

/-- CRC16 of a sequence in two parts goes on from the CRC16 of the first. -/
theorem crc16_append (a b : Bytes) : crc16 (a ++ b) = crcFrom (crc16 a) b :=
  crcFrom_append Config.crcInit a b

@[simp] theorem crc16_nil : crc16 [] = 0xFFFF :=
  (crcFrom_nil Config.crcInit).trans crcInit_eq

/-- R107's example, the checked bytes of the frame V20. -/
theorem crc16_ping : crc16 [0x08, 0x01, 0x05, 0x01, 0x20, 0x01, 0x00] = 0xB75E := by decide +kernel

/-- Settles O9: idempotence holds because the first CRC_INIT already left the register and the response the second one sets. -/
theorem crcInitStartsFromFFFF : Obligations.CrcInitStartsFromFFFF := by
  refine ⟨decode_encode .crcInit, exec_crcInit, ?_, ?_⟩
  · intro s t once
    rw [exec_crcInit] at once
    cases once
    exact exec_crcInit _
  · intro t init
    exact ⟨crc_of_exec init, rxBuf_of_exec init⟩

/-- Settles O10: the second feed steps the register the first one left. -/
theorem crcFeedStepsTheRegister : Obligations.CrcFeedStepsTheRegister := by
  refine ⟨fun b => decode_encode (.crcFeed b), exec_crcFeed, ?_, crcStep_crcInit_zero, by decide, by decide⟩
  intro a b s t u first second
  calc u.crc = crcStep t.crc b := crc_of_exec second
    _ = crcStep (crcStep s.crc a) b := by rw [crc_of_exec first, crcAfter]

/-- Settles O11: each value CRC_READ answers is the one the commands before it left in the register. -/
theorem crcReadReturnsTheRegister : Obligations.CrcReadReturnsTheRegister := by
  refine ⟨decode_encode .crcRead, exec_crcRead, exec_crcRead_of_crc resetValues.1, ?_, ?_⟩
  · intro s t init
    exact exec_crcRead_of_crc (crc_of_exec init)
  · intro s t u init feed
    have started : t.crc = 0xFFFF := crc_of_exec init
    apply exec_crcRead_of_crc
    calc u.crc = crcStep t.crc 0x00 := crc_of_exec feed
      _ = 0x40BF := by rw [started, crcStep_crcInit_zero]

/-- Settles O12: CRC_COMPUTE answers the pure function, which is then evaluated at the rule's corner case and example. -/
theorem crcComputeReturnsCrc16 : Obligations.CrcComputeReturnsCrc16 :=
  ⟨fun data => decode_encode (.crcCompute data), exec_crcCompute, crc16_nil, crc16_ping⟩

/-- Settles O13: a byte appended is a second part of one byte. -/
theorem crc16FoldsTheStep : Obligations.Crc16FoldsTheStep := by
  refine ⟨crc16_nil, fun s b => ?_⟩
  calc crc16 (s ++ [b]) = crcFrom (crc16 s) [b] := crc16_append s [b]
    _ = crcStep (crc16 s) b := by rw [crcFrom_cons, crcFrom_nil]

end Sys2Proof.Machine
end

section
/-! THE SERIALIZER. What FRAME_BUILD does in every state (R120, R125), and the layout of the frame it returns (R60 to R64, R128). -/

namespace Sys2Proof.Machine

/-- The response a command that completed returned. -/
theorem response_of_exec {i : Instr} {s t : State} (h : exec i s = .next t) :
    t.response = some (responseTo i s.crc s.rxBuf) := by
  rw [exec_eq] at h
  cases h
  rfl

variable {version flags src dst opcode : Byte} {payload : Bytes}

/-- FRAME_BUILD changes nothing but the response (R126). -/
theorem exec_frameBuild (version flags src dst opcode : Byte) (payload : Bytes) (s : State) :
    exec (.frameBuild version flags src dst opcode payload) s =
      .next { s with response := some (buildResponse version flags src dst opcode payload) } :=
  exec_eq (.frameBuild version flags src dst opcode payload) s

theorem buildResponse_of_le (fits : payload.length ≤ 247) :
    buildResponse version flags src dst opcode payload =
      ⟨.ok, some (.frame (buildFrame version flags src dst opcode payload))⟩ :=
  if_neg (Nat.not_lt.mpr fits)

theorem buildResponse_of_lt (long : 247 < payload.length) :
    buildResponse version flags src dst opcode payload = ⟨.payloadTooLarge, none⟩ :=
  if_pos long

/-- A frame in a response is the built one, and its payload fits. -/
theorem buildResponse_eq_frame {frame : Bytes} :
    buildResponse version flags src dst opcode payload = ⟨.ok, some (.frame frame)⟩ ↔
      payload.length ≤ 247 ∧ frame = buildFrame version flags src dst opcode payload := by
  obtain ⟨long, h⟩ | ⟨fits, h⟩ := buildResponse_cases version flags src dst opcode payload <;> rw [h]
  · simp [Nat.not_le.mpr long]
  · simp [fits, eq_comm]

/-- The rejection is the answer to the long payloads alone (R120, R125). -/
theorem buildResponse_eq_payloadTooLarge :
    buildResponse version flags src dst opcode payload = ⟨.payloadTooLarge, none⟩ ↔ 247 < payload.length := by
  obtain ⟨long, h⟩ | ⟨fits, h⟩ := buildResponse_cases version flags src dst opcode payload <;> rw [h]
  · simp [long]
  · simp [fits]

/-- What an answer OK of FRAME_BUILD tells: the payload fits, and the frame is the built one. -/
theorem frame_of_exec_frameBuild {frame : Bytes} {s t : State}
    (built : exec (.frameBuild version flags src dst opcode payload) s = .next t)
    (answered : t.response = some ⟨.ok, some (.frame frame)⟩) :
    payload.length ≤ 247 ∧ frame = buildFrame version flags src dst opcode payload := by
  rw [response_of_exec built, Option.some_inj] at answered
  exact buildResponse_eq_frame.mp answered

/-- R120's example, the frame V20. -/
theorem buildFrame_ping :
    buildFrame 0x01 0x05 0x01 0x20 0x01 [] = [0xAA, 0x08, 0x01, 0x05, 0x01, 0x20, 0x01, 0x00, 0x5E, 0xB7] := by
  have body : frameBody 0x01 0x05 0x01 0x20 0x01 [] = [0x08, 0x01, 0x05, 0x01, 0x20, 0x01, 0x00] := rfl
  rw [buildFrame, body, crc16_ping]
  rfl

/-- Settles O20: the frame the statement writes out is the built one; its example needs the checksum of V20's body. -/
theorem frameBuildSerializes : Obligations.FrameBuildSerializes := by
  refine ⟨fun version flags src dst opcode payload => decode_encode (.frameBuild version flags src dst opcode payload),
    ?_, ?_, ?_⟩
  · intro version flags src dst opcode payload s fits body frame
    have written : buildFrame version flags src dst opcode payload = frame := rfl
    rw [exec_frameBuild, buildResponse_of_le fits, ← written]
    exact ⟨rfl, buildFrame_length version flags src dst opcode payload⟩
  · intro version flags src dst opcode payload s long
    rw [exec_frameBuild, buildResponse_of_lt long]
  · intro s
    rw [exec_frameBuild, buildResponse_of_le (payload := []) (Nat.zero_le 247), buildFrame_ping]

/-- Settles O21: the response alone changes, and it is the rejection exactly when the payload is long. -/
theorem longPayloadIsRejected : Obligations.LongPayloadIsRejected := by
  intro version flags src dst opcode payload s t built
  rw [exec_frameBuild] at built
  cases built
  constructor
  · rw [Option.some_inj, buildResponse_eq_payloadTooLarge]
  · intro long
    rw [buildResponse_of_lt long]

/-- The eight bytes before the payload, by position, and the two after it (R60 to R64). -/
theorem buildFrame_eq_append (version flags src dst opcode : Byte) (payload : Bytes) :
    buildFrame version flags src dst opcode payload =
      [Config.sig, lenByte (payload.length + 8), version, flags, src, dst, opcode, lenByte payload.length] ++
        (payload ++ wordBytes (crc16 (frameBody version flags src dst opcode payload))) := by
  simp [buildFrame, frameBody, Config.lenOverhead, Config.hdrLen, Config.crcLen]

/-- The payload stands behind the eight bytes. -/
theorem take_drop_buildFrame (version flags src dst opcode : Byte) (payload : Bytes) :
    ((buildFrame version flags src dst opcode payload).drop 8).take payload.length = payload := by
  rw [buildFrame_eq_append]
  exact List.take_left

/-- A sequence that ends with a word's two bytes carries that word (R42, R144). -/
theorem sentChecksum_append_wordBytes (front : Bytes) (w : Word16) : sentChecksum (front ++ wordBytes w) = w := by
  have low : byteAt (front ++ wordBytes w) front.length = lo8 w := by simp [byteAt, wordBytes]
  have high : byteAt (front ++ wordBytes w) (front.length + 1) = hi8 w := by simp [byteAt, wordBytes]
  calc sentChecksum (front ++ wordBytes w) =
      wordOfBytes (byteAt (front ++ wordBytes w) front.length) (byteAt (front ++ wordBytes w) (front.length + 1)) := by
        simp [sentChecksum, wordBytes]
    _ = w := by rw [low, high, wordOfBytes_split]

/-- The checksum covers what stands between the first byte and the last two (R144). -/
theorem coveredChecksum_append_wordBytes (first : Byte) (body : Bytes) (w : Word16) :
    coveredChecksum ([first] ++ body ++ wordBytes w) = crc16 body := by
  simp [coveredChecksum, slice, wordBytes]

/-- A built frame carries the checksum it covers, that of its body (R64, R123, R124). -/
theorem sentChecksum_buildFrame (version flags src dst opcode : Byte) (payload : Bytes) :
    sentChecksum (buildFrame version flags src dst opcode payload) =
      coveredChecksum (buildFrame version flags src dst opcode payload) := by
  rw [buildFrame, sentChecksum_append_wordBytes, coveredChecksum_append_wordBytes]

/-- The length byte is P + 8 (R61, R121): a payload that fits leaves it untruncated. -/
theorem lengthByte_buildFrame (fits : payload.length ≤ 247) :
    (byteAt (buildFrame version flags src dst opcode payload) 1).toNat = payload.length + 8 := by
  rw [buildFrame_eq_append]
  exact lenByte_toNat (by omega)

/-- Byte 7 is P (R63, R122), untruncated when the payload fits. -/
theorem payloadLengthByte_buildFrame (fits : payload.length ≤ 247) :
    (byteAt (buildFrame version flags src dst opcode payload) 7).toNat = payload.length := by
  rw [buildFrame_eq_append]
  exact lenByte_toNat (by omega)

/-- Settles O22: the frame is the built one, whose bytes stand at known positions, and the checksum it carries is the one it
covers. -/
theorem builtFramesKeepTheLayout : Obligations.BuiltFramesKeepTheLayout := by
  intro version flags src dst opcode payload frame s t built answered
  obtain ⟨fits, rfl⟩ := frame_of_exec_frameBuild built answered
  have len := buildFrame_length version flags src dst opcode payload
  have lengthByte : ((buildFrame version flags src dst opcode payload).getD 1 0).toNat = payload.length + 8 :=
    lengthByte_buildFrame fits
  have checksum := sentChecksum_buildFrame version flags src dst opcode payload
  rw [sentChecksum, wordOfBytes_eq_append] at checksum
  exact ⟨len, by omega, by omega, rfl, by omega, lengthByte, rfl, rfl, rfl, rfl, rfl, payloadLengthByte_buildFrame fits,
    take_drop_buildFrame version flags src dst opcode payload, checksum⟩

end Sys2Proof.Machine
end

section
/-! THE DESERIALIZER. The status of each of FRAME_PARSE's five checks when it is the first that fails (R141 to R147), and what an
accepted candidate returns (R148). -/

namespace Sys2Proof.Machine

variable {c : Bytes}

/-- FRAME_PARSE changes nothing but the response (R149). -/
theorem exec_frameParse (c : Bytes) (s : State) :
    exec (.frameParse c) s = .next { s with response := some (parseResponse c) } :=
  exec_eq (.frameParse c) s

theorem exec_frameParse_of_rejected {st : Status} (status : parseStatus c = st) (failed : st ≠ .ok) (s : State) :
    exec (.frameParse c) s = .next { s with response := some ⟨st, none⟩ } := by
  rw [exec_frameParse, parseResponse_eq, status, if_neg failed]

theorem exec_frameParse_of_accepted (status : parseStatus c = .ok) (s : State) :
    exec (.frameParse c) s = .next { s with response := some ⟨.ok, some (.parsed (parsedFields c))⟩ } := by
  rw [exec_frameParse, parseResponse_eq, status, if_pos rfl]

/-- The last byte is the carried checksum's high byte, the last but one its low byte (R42, R144). -/
theorem sentChecksum_eq_append (c : Bytes) :
    sentChecksum c = byteAt c (c.length - 1) ++ byteAt c (c.length - 2) :=
  wordOfBytes_eq_append _ _

/-- The recomputed checksum leaves out the first byte and the last two (R144, conflict C3). -/
theorem coveredChecksum_eq_crc16 (c : Bytes) : coveredChecksum c = crc16 ((c.drop 1).take (c.length - 3)) := by
  rw [coveredChecksum, slice, Nat.sub_sub]

/-- The payload of a parsed candidate stands between its first eight bytes and its last two (R148). -/
theorem parsedFields_payload (c : Bytes) : (parsedFields c).payload = (c.drop 8).take (c.length - 10) := by
  rw [parsedFields, slice, Nat.sub_sub]

theorem parsedFields_payload_length (c : Bytes) : (parsedFields c).payload.length = c.length - 10 := by
  rw [parsedFields, slice_length (Nat.sub_le _ _), Nat.sub_sub]

/-! Each status under its own check, the checks before it passed. -/

theorem parseStatus_of_short (short : c.length < 10) : parseStatus c = .frameTooShort := by
  rw [parseStatus_eq, if_pos short]

section
variable (enough : 10 ≤ c.length)
include enough

theorem parseStatus_of_badSignature (bad : byteAt c 0 ≠ 0xAA#8) : parseStatus c = .badSignature := by
  simp [parseStatus_eq, enough.not_gt, bad]

variable (signed : byteAt c 0 = 0xAA#8)
include signed

theorem parseStatus_of_lengthMismatch (bad : (byteAt c 1).toNat + 2 ≠ c.length) : parseStatus c = .lengthMismatch := by
  simp [parseStatus_eq, enough.not_gt, signed, bad]

variable (sized : (byteAt c 1).toNat + 2 = c.length)
include sized

theorem parseStatus_of_checksumMismatch (bad : coveredChecksum c ≠ sentChecksum c) :
    parseStatus c = .checksumMismatch := by
  simp [parseStatus_eq, enough.not_gt, signed, sized, bad]

variable (summed : coveredChecksum c = sentChecksum c)
include summed

theorem parseStatus_of_payloadLengthMismatch (bad : (byteAt c 7).toNat ≠ (byteAt c 1).toNat - 8) :
    parseStatus c = .payloadLengthMismatch := by
  simp [parseStatus_eq, enough.not_gt, signed, sized, summed, bad]

theorem parseStatus_of_all_passed (agree : (byteAt c 7).toNat = (byteAt c 1).toNat - 8) : parseStatus c = .ok := by
  simp [parseStatus_eq, enough.not_gt, signed, sized, summed, agree]

end

/-- Settles O23: the two checksums the statement writes out are those of check 4, and each outcome is the status of the first check
that fails. The last two clauses are the range of the length byte. -/
theorem frameParseChecksInOrder : Obligations.FrameParseChecksInOrder := by
  intro c s byte rejected recomputed sent
  have recomputed_eq : coveredChecksum c = recomputed := coveredChecksum_eq_crc16 c
  have sent_eq : sentChecksum c = sent := sentChecksum_eq_append c
  rw [← recomputed_eq, ← sent_eq]
  have reject {st : Status} (status : parseStatus c = st) (failed : st ≠ .ok) : rejected st :=
    exec_frameParse_of_rejected status failed s
  refine ⟨?short, ?signature, ?length, ?checksum, ?payloadLength, ?accepted, ?long, ?smallLength⟩
  case short =>
    exact fun short => reject (parseStatus_of_short short) (by decide)
  case signature =>
    exact fun enough bad => reject (parseStatus_of_badSignature enough bad) (by decide)
  case length =>
    exact fun enough signed bad => reject (parseStatus_of_lengthMismatch enough signed bad) (by decide)
  case checksum =>
    exact fun enough signed sized bad => reject (parseStatus_of_checksumMismatch enough signed sized bad) (by decide)
  case payloadLength =>
    exact fun enough signed sized summed bad =>
      reject (parseStatus_of_payloadLengthMismatch enough signed sized summed bad) (by decide)
  case accepted =>
    intro enough signed sized summed agree
    have status := parseStatus_of_all_passed enough signed sized summed agree
    have len := parsedFields_payload_length c
    rw [← parsedFields_payload]
    exact ⟨exec_frameParse_of_accepted status s, by omega⟩
  case long =>
    have : (byte 1).toNat < 256 := (byte 1).isLt
    omega
  case smallLength =>
    omega

end Sys2Proof.Machine
end

section
/-! THE RECEIVE FRAMER. What RX_BEGIN, RX_IDLE and RX_TIMEOUT do in every state (R171, R182, R184). -/

namespace Sys2Proof.Machine

theorem exec_rxBegin (s : State) :
    exec .rxBegin s = .next { s with rxBuf := [], response := some ⟨.ok, none⟩ } :=
  exec_eq .rxBegin s

theorem exec_rxIdle (s : State) :
    exec .rxIdle s = .next { s with response := some ⟨.pending, none⟩ } :=
  exec_eq .rxIdle s

theorem exec_rxTimeout (s : State) :
    exec .rxTimeout s = .next { s with rxBuf := [], response := some ⟨.noFrame, none⟩ } :=
  exec_eq .rxTimeout s

/-- No command reads the response of the one before it, and each sets its own (R9). -/
theorem exec_of_response_changed (i : Instr) (s : State) (r : Option Response) :
    exec i { s with response := r } = exec i s := by
  rw [exec_eq, exec_eq]

/-- Settles O27: the encoding of RX_BEGIN, and its effect in every state. -/
theorem rxBeginEmptiesTheBuffer : Obligations.RxBeginEmptiesTheBuffer :=
  ⟨decode_encode .rxBegin, exec_rxBegin⟩

/-- Settles O28: RX_IDLE sets only the response, which the RX_BYTE after it does not read. -/
theorem rxIdleChangesNothing : Obligations.RxIdleChangesNothing := by
  refine ⟨decode_encode .rxIdle, exec_rxIdle, ?_⟩
  intro s t b idle
  rw [exec_rxIdle] at idle
  cases idle
  exact exec_of_response_changed (.rxByte b) s _

/-- Settles O29: the encoding of RX_TIMEOUT, and its effect in every state. -/
theorem rxTimeoutDiscardsTheBuffer : Obligations.RxTimeoutDiscardsTheBuffer :=
  ⟨decode_encode .rxTimeout, exec_rxTimeout⟩

end Sys2Proof.Machine
end

section
/-! STATUSES AND RESPONSES. The response of every instruction is one its row of the table of statuses allows, and every command the
interface accepts is answered in the step that delivers it (R84, R200, R201). -/

namespace Sys2Proof

theorem kind_eq_byte {o : Operand} : o.kind = .byte ↔ ∃ b, o = .byte b := by
  cases o <;> simp [Operand.kind]

theorem kind_eq_bytes {o : Operand} : o.kind = .bytes ↔ ∃ s, o = .bytes s := by
  cases o <;> simp [Operand.kind]

/-- Operands that fit a row's shape are those of an instruction of that row (R82, R84). -/
theorem exists_instr_of_operandsFit {m : Mnemonic} {ops : List Operand} (fit : operandsFit m ops = true) :
    ∃ i : Instr, i.mnemonic = m ∧ i.operands = ops := by
  have kinds : ops.map Operand.kind = m.shape := operandsFit_iff.mp fit
  cases m <;> simp only [Mnemonic.shape, List.map_eq_nil_iff, List.map_eq_cons_iff, kind_eq_byte, kind_eq_bytes] at kinds
  case crcInit => exact ⟨.crcInit, rfl, kinds.symm⟩
  case crcRead => exact ⟨.crcRead, rfl, kinds.symm⟩
  case rxBegin => exact ⟨.rxBegin, rfl, kinds.symm⟩
  case rxIdle => exact ⟨.rxIdle, rfl, kinds.symm⟩
  case rxTimeout => exact ⟨.rxTimeout, rfl, kinds.symm⟩
  case crcFeed =>
    obtain ⟨_, _, rfl, ⟨b, rfl⟩, rfl⟩ := kinds
    exact ⟨.crcFeed b, rfl, rfl⟩
  case rxByte =>
    obtain ⟨_, _, rfl, ⟨b, rfl⟩, rfl⟩ := kinds
    exact ⟨.rxByte b, rfl, rfl⟩
  case crcCompute =>
    obtain ⟨_, _, rfl, ⟨data, rfl⟩, rfl⟩ := kinds
    exact ⟨.crcCompute data, rfl, rfl⟩
  case frameParse =>
    obtain ⟨_, _, rfl, ⟨cand, rfl⟩, rfl⟩ := kinds
    exact ⟨.frameParse cand, rfl, rfl⟩
  case frameBuild =>
    obtain ⟨_, _, rfl, ⟨version, rfl⟩, _, _, rfl, ⟨flags, rfl⟩, _, _, rfl, ⟨src, rfl⟩, _, _, rfl, ⟨dst, rfl⟩, _, _, rfl,
      ⟨opcode, rfl⟩, _, _, rfl, ⟨payload, rfl⟩, rfl⟩ := kinds
    exact ⟨.frameBuild version flags src dst opcode payload, rfl, rfl⟩

/-- An accepted command is never malformed. -/
theorem decode_of_accepted {c : Command} (accepted : c.accepted = true) :
    (∃ i, decode c = .legal i) ∨ ∃ code, decode c = .illegalCode code := by
  cases row : mnemonicOf c.code with
  | none => exact .inr ⟨c.code, decode_of_no_row (mnemonicOf_eq_none.mp row)⟩
  | some m =>
    have fit : operandsFit m c.operands = true := by simpa only [Command.accepted, row] using accepted
    obtain ⟨i, hm, hops⟩ := exists_instr_of_operandsFit fit
    have operands : instrOf m c.operands = some i := instrOf_eq_some.mpr ⟨hm, hops⟩
    exact .inl ⟨i, by simp only [decode, row, operands]⟩

namespace Machine

/-- The statuses FRAME_PARSE can answer: OK, and one for each check (R141 to R148). -/
theorem parseStatus_cases (c : Bytes) :
    parseStatus c = .ok ∨ parseStatus c = .frameTooShort ∨ parseStatus c = .badSignature ∨
    parseStatus c = .lengthMismatch ∨ parseStatus c = .checksumMismatch ∨ parseStatus c = .payloadLengthMismatch := by
  rw [parseStatus_eq]
  split_ifs <;> simp

/-- Every instruction's response is one the table of statuses allows it (R201). -/
theorem responseAllowed_responseTo (i : Instr) (crc : Word16) (buf : Bytes) :
    responseAllowed i (responseTo i crc buf) = true := by
  cases i with
  | crcInit | crcFeed | crcRead | crcCompute | rxBegin | rxIdle | rxTimeout => rfl
  | frameBuild version flags src dst opcode payload =>
    rw [responseTo]
    obtain ⟨-, h⟩ | ⟨-, h⟩ := buildResponse_cases version flags src dst opcode payload <;> rw [h] <;> rfl
  | frameParse cand =>
    rw [responseTo, parseResponse_eq]
    obtain h | h | h | h | h | h := parseStatus_cases cand <;> rw [h] <;> rfl
  | rxByte b =>
    rw [responseTo]
    cases (extract (buf ++ [b])).2 <;> rfl

/-- In the table of statuses only OK and FRAME_READY come with a result (R201, column "result"). -/
theorem status_of_responseAllowed {i : Instr} {r : Response} (allowed : responseAllowed i r = true)
    (carries : r.result ≠ none) : r.status = .ok ∨ r.status = .frameReady := by
  obtain ⟨st, _ | res⟩ := r
  · exact absurd rfl carries
  · cases st with
    | ok => exact .inl rfl
    | frameReady => exact .inr rfl
    | frameTooShort | badSignature | lengthMismatch | checksumMismatch | payloadLengthMismatch | payloadTooLarge | pending | noFrame
    | illegalCommand => cases i <;> cases allowed

/-- Settles O39: an instruction's response is the one its three functions give, which its row allows; an accepted command either is
an instruction or has an illegal code, and ILLEGAL_COMMAND carries no result. -/
theorem everyCommandReturnsOneResponse : Obligations.EveryCommandReturnsOneResponse := by
  constructor
  · intro i s
    exact ⟨_, _, exec_eq i s, rfl, responseAllowed_responseTo i s.crc s.rxBuf⟩
  · intro s c rest hq accepted
    rw [step_command hq]
    obtain ⟨i, legal⟩ | ⟨code, illegal⟩ := decode_of_accepted accepted
    · rw [deliver_legal legal]
      exact ⟨_, _, exec_eq i _, rfl, rfl, status_of_responseAllowed (responseAllowed_responseTo i _ _)⟩
    · exact ⟨_, _, deliver_illegalCode illegal _, rfl, rfl, fun carries => absurd rfl carries⟩

end Machine

end Sys2Proof
end

section
/-! THE RESET INPUT. The step that takes it, and what that step leaves (R230). -/

namespace Sys2Proof.Machine

/-- A step whose next event is the reset input takes the reset, with the event off the queue. -/
theorem step_resetInput {s : State} {rest : List HostEvent} (hq : s.hostQueue = .reset :: rest) :
    step s = .next (takeReset (setQueue rest s)) := by
  simp only [step, hostStep, hq]

/-- Settles O2: the step takes the reset, which sets `crc` to CRC_INIT, empties `rx_buf` and leaves no response. -/
theorem resetInputClearsTheBlock : Obligations.ResetInputClearsTheBlock := by
  intro s rest hq
  exact ⟨takeReset (setQueue rest s), step_resetInput hq, (takeReset_crc _).trans crcInit_eq, takeReset_rxBuf _,
    takeReset_response _⟩

end Sys2Proof.Machine
end

section
/-! DECODING INVERTED. A command decodes to one instruction alone, or to none (R80 to R84), and what a step makes of it. -/

namespace Sys2Proof

/-- A command decodes to an instruction exactly when it is that instruction's encoding. -/
theorem decode_eq_legal {c : Command} {i : Instr} : decode c = .legal i ↔ c = encode i := by
  constructor
  · intro legal
    unfold decode at legal
    split at legal
    · cases legal
    · next m row =>
      split at legal
      · next j operands =>
        cases legal
        obtain ⟨hm, hops⟩ := instrOf_eq_some.mp operands
        rw [encode, hm, hops, mnemonicOf_eq_some.mp row]
      · cases legal
  · rintro rfl
    exact decode_encode i

/-- Settles O7: the decoder's table read backwards gives the encoding, and read forwards it gives the instruction back. -/
theorem decodeInvertsEncode : Obligations.DecodeInvertsEncode :=
  fun _ _ => decode_eq_legal

/-- An instruction is fixed by its row and its operands. -/
theorem instr_eq_of_mnemonic_of_operands {i j : Instr} (row : j.mnemonic = i.mnemonic)
    (operands : j.operands = i.operands) : j = i := by
  have same : encode j = encode i := by rw [encode, encode, row, operands]
  have decoded := decode_encode j
  rw [same, decode_encode, Decoded.legal.injEq] at decoded
  exact decoded.symm

/-- A legal code with operands of another shape is malformed (R84). -/
theorem decode_of_misshapen {m : Mnemonic} {ops : List Operand} (misfit : ops.map Operand.kind ≠ m.shape) :
    decode ⟨m.code, ops⟩ = .malformed m := by
  have row : mnemonicOf m.code = some m := mnemonicOf_eq_some.mpr rfl
  have operands : instrOf m ops = none := by
    refine Option.eq_none_iff_forall_ne_some.mpr fun i made => misfit ?_
    obtain ⟨rfl, rfl⟩ := instrOf_eq_some.mp made
    exact operands_kinds i
  simp only [decode, row, operands]

namespace Machine

/-- A malformed command is refused by the interface (R84). -/
theorem deliver_malformed {c : Command} {m : Mnemonic} (h : decode c = .malformed m) (s : State) :
    deliver c s = .refused (.malformedOperands m) := by
  simp only [deliver, h]

/-- Settles O4: the step delivers the command with the event off the queue, and a legal command runs. -/
theorem stepRunsTheDecodedCommand : Obligations.StepRunsTheDecodedCommand := by
  intro s c rest i hq legal
  rw [step_command hq, deliver_legal legal]
  rfl

/-- Settles O6: misfit operands make the command malformed; fitting ones are those of one instruction, whose encoding the command
then is. -/
theorem misshapenCommandsAreRefused : Obligations.MisshapenCommandsAreRefused := by
  intro s m ops rest hq
  constructor
  · intro misfit
    rw [step_command hq, deliver_malformed (decode_of_misshapen misfit)]
  · intro fit
    obtain ⟨i, rfl, rfl⟩ := exists_instr_of_operandsFit (operandsFit_iff.mpr fit)
    exact ⟨i, _, rfl, rfl, stepRunsTheDecodedCommand s (encode i) rest i hq (decode_encode i), exec_eq i _,
      fun j => instr_eq_of_mnemonic_of_operands⟩

/-- A step with nothing queued keeps the state (R8, R215). -/
theorem step_idle {s : State} (hq : s.hostQueue = []) : step s = .next s := by
  simp only [step, hostStep, hq]

/-- Settles O3: with no event at its head the queue gives the step nothing to do. -/
theorem idleBlockKeepsItsState : Obligations.IdleBlockKeepsItsState :=
  fun _ => step_idle

/-- Settles O41: each kind of event has its own completing step, which leaves the rest of the queue, accepted as it was. -/
theorem behavedHostNeverMeetsAStop : Obligations.BehavedHostNeverMeetsAStop := by
  intro s behaves
  rw [State.HostBehaves] at behaves
  cases hq : s.hostQueue with
  | nil => exact ⟨s, step_idle hq, behaves⟩
  | cons e rest =>
    rw [hq, List.forall_mem_cons] at behaves
    obtain ⟨accepted, restBehaves⟩ := behaves
    cases e with
    | reset => exact ⟨_, step_resetInput hq, restBehaves⟩
    | command c =>
      obtain ⟨t, -, next, -, queue, -⟩ := everyCommandReturnsOneResponse.2 s c rest hq accepted
      exact ⟨t, next, fun e queued => restBehaves e (queue ▸ queued)⟩

end Machine

end Sys2Proof
end

section
/-! THE STATUS TABLE. The codes of R201 and the failures of R202. -/

namespace Sys2Proof.Machine

/-- The rows of R201, in their order. -/
def statusTable : List Status :=
  [.ok, .frameTooShort, .badSignature, .lengthMismatch, .checksumMismatch, .payloadLengthMismatch, .payloadTooLarge, .pending,
    .frameReady, .noFrame, .illegalCommand]

/-- The table has a row for every status. -/
theorem mem_statusTable (st : Status) : st ∈ statusTable := by
  cases st <;> decide

/-- No code stands in two rows of the table. -/
theorem statusTable_codes_nodup : (statusTable.map Status.code).Nodup := by decide

/-- Settles O40: the column of codes has no repetition, so a code fixes its row; the failures are read off row by row. -/
theorem statusCodesOfTheTable : Obligations.StatusCodesOfTheTable := by
  refine ⟨rfl, fun a b => ?_, fun a => ?_⟩
  · exact List.inj_on_of_nodup_map statusTable_codes_nodup (mem_statusTable a) (mem_statusTable b)
  · have rows : ∀ st ∈ statusTable,
        (st.failing = true ↔ (0x01 ≤ st.code ∧ st.code ≤ 0x06) ∨ st.code = 0xFF) := by decide
    exact rows a (mem_statusTable a)

end Sys2Proof.Machine
end

section
/-! NUMERALS. A number as a byte operand (R82, R127). -/

namespace Sys2Proof.Machine

/-- A number is the byte of its value when it is at most 255, and no byte otherwise. -/
theorem byteOfNumber_eq_some {n : Nat} {b : Byte} :
    (if n < 256 then some (BitVec.ofNat 8 n) else none) = some b ↔ n = b.toNat := by
  split
  · next small => rw [Option.some_inj, ← BitVec.toNat_inj, BitVec.toNat_ofNat, Nat.mod_eq_of_lt small]
  · next large =>
    have : b.toNat < 256 := b.isLt
    simp only [reduceCtorEq, false_iff]
    omega

/-- Settles O51: a numeral that has a number is judged by that number, and one that has none is no byte. -/
theorem numeralsAreNeverReduced : Obligations.NumeralsAreNeverReduced := by
  intro digits b
  rw [byteOf]
  cases numberOf digits with
  | none => simp
  | some n => rw [Option.bind_some, byteOfNumber_eq_some, Option.some_inj]

end Sys2Proof.Machine
end

section
/-! WHAT EACH COMMAND USES. A command leaves the part it does not use as it is and does not read it (R21, R22, R170), with what follows
for interleaving (R242), for repetition (R48) and for failures (R202). -/

namespace Sys2Proof.Machine

/-- The state a command leaves. -/
def stateAfter (i : Instr) (s : State) : State :=
  { s with
    crc := crcAfter i s.crc
    rxBuf := rxBufAfter i s.rxBuf
    response := some (responseTo i s.crc s.rxBuf) }

/-- Every command completes, in the state it leaves (R200). -/
theorem exec_eq_stateAfter (i : Instr) (s : State) : exec i s = .next (stateAfter i s) :=
  exec_eq i s

@[simp] theorem stateAfter_crc (i : Instr) (s : State) : (stateAfter i s).crc = crcAfter i s.crc := rfl
@[simp] theorem stateAfter_rxBuf (i : Instr) (s : State) : (stateAfter i s).rxBuf = rxBufAfter i s.rxBuf := rfl
@[simp] theorem stateAfter_hostQueue (i : Instr) (s : State) : (stateAfter i s).hostQueue = s.hostQueue := rfl
@[simp] theorem stateAfter_response (i : Instr) (s : State) :
    (stateAfter i s).response = some (responseTo i s.crc s.rxBuf) := rfl

theorem exec_eq_next {i : Instr} {s t : State} : exec i s = .next t ↔ t = stateAfter i s := by
  rw [exec_eq_stateAfter, Host.Outcome.next.injEq, eq_comm]

section
variable {i : Instr}

theorem crcAfter_eq_of_unused (unused : usesCrc i = false) (crc : Word16) : crcAfter i crc = crc := by
  cases i with
  | crcInit | crcFeed | crcRead => cases unused
  | crcCompute | frameBuild | frameParse | rxBegin | rxByte | rxIdle | rxTimeout => rfl

theorem responseTo_eq_of_crc_unused (unused : usesCrc i = false) (crc crc' : Word16) (buf : Bytes) :
    responseTo i crc buf = responseTo i crc' buf := by
  cases i with
  | crcInit | crcFeed | crcRead => cases unused
  | crcCompute | frameBuild | frameParse | rxBegin | rxByte | rxIdle | rxTimeout => rfl

theorem rxBufAfter_eq_of_unused (unused : usesRxBuf i = false) (buf : Bytes) : rxBufAfter i buf = buf := by
  cases i with
  | rxBegin | rxByte | rxTimeout => cases unused
  | crcInit | crcFeed | crcRead | crcCompute | frameBuild | frameParse | rxIdle => rfl

theorem responseTo_eq_of_rxBuf_unused (unused : usesRxBuf i = false) (crc : Word16) (buf buf' : Bytes) :
    responseTo i crc buf = responseTo i crc buf' := by
  cases i with
  | rxBegin | rxByte | rxTimeout => cases unused
  | crcInit | crcFeed | crcRead | crcCompute | frameBuild | frameParse | rxIdle => rfl

/-- The register changes under CRC_INIT and CRC_FEED alone. -/
theorem writer_of_crcAfter_ne {crc : Word16} (changed : crcAfter i crc ≠ crc) : i = .crcInit ∨ ∃ b, i = .crcFeed b := by
  cases i with
  | crcInit => exact .inl rfl
  | crcFeed b => exact .inr ⟨b, rfl⟩
  | crcRead | crcCompute | frameBuild | frameParse | rxBegin | rxByte | rxIdle | rxTimeout => exact absurd rfl changed

/-- The buffer changes under RX_BEGIN, RX_BYTE and RX_TIMEOUT alone. -/
theorem writer_of_rxBufAfter_ne {buf : Bytes} (changed : rxBufAfter i buf ≠ buf) :
    i = .rxBegin ∨ i = .rxTimeout ∨ ∃ b, i = .rxByte b := by
  cases i with
  | rxBegin => exact .inl rfl
  | rxTimeout => exact .inr (.inl rfl)
  | rxByte b => exact .inr (.inr ⟨b, rfl⟩)
  | crcInit | crcFeed | crcRead | crcCompute | frameBuild | frameParse | rxIdle => exact absurd rfl changed

end

/-- Settles O44: the command's two register functions say which commands write each part. -/
theorem onlyTheirOwnCommandsWriteEachPart : Obligations.OnlyTheirOwnCommandsWriteEachPart := by
  intro i s t run
  obtain rfl := exec_eq_next.mp run
  exact ⟨rfl, writer_of_crcAfter_ne, writer_of_rxBufAfter_ne⟩

/-- Settles O45: with the part unused, neither the other part's new value nor the response depends on it. -/
theorem commandsIgnoreThePartTheyDoNotUse : Obligations.CommandsIgnoreThePartTheyDoNotUse := by
  constructor
  · intro i s c unused
    refine ⟨_, exec_eq i s, crcAfter_eq_of_unused unused s.crc, ?_⟩
    rw [exec_eq, crcAfter_eq_of_unused unused, responseTo_eq_of_crc_unused unused c s.crc]
  · intro i s buf unused
    refine ⟨_, exec_eq i s, rxBufAfter_eq_of_unused unused s.rxBuf, ?_⟩
    rw [exec_eq, rxBufAfter_eq_of_unused unused, responseTo_eq_of_rxBuf_unused unused s.crc buf s.rxBuf]

section
variable {i j : Instr}

/-- Two commands that do not both use the register may write it in either order. -/
theorem crcAfter_comm (apart : (usesCrc i && usesCrc j) = false) (crc : Word16) :
    crcAfter i (crcAfter j crc) = crcAfter j (crcAfter i crc) := by
  obtain unused | unused := Bool.and_eq_false_iff.mp apart <;> simp only [crcAfter_eq_of_unused unused]

/-- Two commands that do not both use the buffer may write it in either order. -/
theorem rxBufAfter_comm (apart : (usesRxBuf i && usesRxBuf j) = false) (buf : Bytes) :
    rxBufAfter i (rxBufAfter j buf) = rxBufAfter j (rxBufAfter i buf) := by
  obtain unused | unused := Bool.and_eq_false_iff.mp apart <;> simp only [rxBufAfter_eq_of_unused unused]

/-- A command's response is the same after one that shares no state with it. -/
theorem responseTo_after (crcApart : (usesCrc i && usesCrc j) = false) (rxBufApart : (usesRxBuf i && usesRxBuf j) = false)
    (crc : Word16) (buf : Bytes) : responseTo i (crcAfter j crc) (rxBufAfter j buf) = responseTo i crc buf := by
  calc responseTo i (crcAfter j crc) (rxBufAfter j buf) = responseTo i crc (rxBufAfter j buf) := by
        obtain unused | unused := Bool.and_eq_false_iff.mp crcApart
        · exact responseTo_eq_of_crc_unused unused _ _ _
        · rw [crcAfter_eq_of_unused unused]
    _ = responseTo i crc buf := by
        obtain unused | unused := Bool.and_eq_false_iff.mp rxBufApart
        · exact responseTo_eq_of_rxBuf_unused unused _ _ _
        · rw [rxBufAfter_eq_of_unused unused]

end

/-- Settles O46: the two writes commute, and neither command's response sees the other's write. -/
theorem unitsMayBeInterleaved : Obligations.UnitsMayBeInterleaved := by
  intro i j s crcApart rxBufApart
  refine ⟨_, _, _, _, exec_eq_stateAfter i s, exec_eq_stateAfter j _, exec_eq_stateAfter j s, exec_eq_stateAfter i _, ?_⟩
  refine ⟨(crcAfter_comm crcApart s.crc).symm, (rxBufAfter_comm rxBufApart s.rxBuf).symm, ?_, ?_⟩
  · exact congrArg some (responseTo_after crcApart rxBufApart s.crc s.rxBuf).symm
  · rw [Bool.and_comm] at crcApart rxBufApart
    exact congrArg some (responseTo_after crcApart rxBufApart s.crc s.rxBuf)

/-- A repeatable command leaves a state in which it leaves the same again. -/
theorem stateAfter_stateAfter_of_repeatable {i : Instr} (repeats : repeatable i = true) (s : State) :
    stateAfter i (stateAfter i s) = stateAfter i s := by
  cases i with
  | crcFeed | rxByte => cases repeats
  | crcInit | crcRead | crcCompute | frameBuild | frameParse | rxBegin | rxIdle | rxTimeout => rfl

/-- Settles O47: the two commands that accumulate are CRC_FEED and RX_BYTE. A second 0x00 moves the register on from 0x40BF, and a
second 0xAA lengthens the buffer. -/
theorem repeatingChangesNothingMore : Obligations.RepeatingChangesNothingMore := by
  refine ⟨fun i s repeats => ⟨_, exec_eq_stateAfter i s, ?_⟩, ?_, ?_⟩
  · rw [exec_eq_stateAfter, stateAfter_stateAfter_of_repeatable repeats]
  · refine ⟨0x00, .reset, _, _, exec_eq_stateAfter _ _, exec_eq_stateAfter _ _, ?_⟩
    simp only [stateAfter_crc, crcAfter, reset_crc, crcInit_eq, crcStep_crcInit_zero]
    decide
  · exact ⟨0xAA, .reset, _, _, exec_eq_stateAfter _ _, exec_eq_stateAfter _ _, by decide⟩

section
variable {i : Instr} {crc : Word16} {buf : Bytes} (failed : (responseTo i crc buf).status.failing = true)
include failed

/-- Only the codec's two commands fail, and they use no part of the state (R126, R149, R201). -/
theorem unused_of_failing : usesCrc i = false ∧ usesRxBuf i = false := by
  cases i with
  | frameBuild | frameParse => exact ⟨rfl, rfl⟩
  | crcInit | crcFeed | crcRead | crcCompute | rxBegin | rxIdle | rxTimeout => cases failed
  | rxByte b =>
    rw [responseTo] at failed
    split at failed <;> cases failed

/-- A failing response carries no result: only OK and FRAME_READY come with one. -/
theorem result_of_failing : (responseTo i crc buf).result = none := by
  by_contra carries
  obtain h | h := status_of_responseAllowed (responseAllowed_responseTo i crc buf) carries <;> rw [h] at failed <;> cases failed

end

/-- Settles O42: a command that fails is one of the codec's, or has an illegal code. -/
theorem failuresChangeNothing : Obligations.FailuresChangeNothing := by
  intro s t c rest r hq run answered failed
  rw [step_command hq] at run
  obtain ⟨i, -, delivered⟩ | ⟨code, -, delivered⟩ | ⟨m, -, delivered⟩ := deliver_cases c (setQueue rest s)
  · rw [delivered] at run
    obtain rfl := exec_eq_next.mp run
    rw [stateAfter_response, Option.some_inj] at answered
    subst answered
    obtain ⟨crcUnused, rxBufUnused⟩ := unused_of_failing failed
    exact ⟨result_of_failing failed, crcAfter_eq_of_unused crcUnused s.crc, rxBufAfter_eq_of_unused rxBufUnused s.rxBuf⟩
  · rw [delivered] at run
    cases run
    cases answered
    exact ⟨rfl, rfl, rfl⟩
  · rw [delivered] at run
    cases run

end Sys2Proof.Machine
end

section
/-! THE CRC STEP. It is eight shifts (R100), linear over GF(2) and one-to-one in the register and in the byte; so a changed byte changes
the CRC16 (R111), and a sequence followed by its own CRC16 leaves zero. -/

namespace Sys2Proof.Machine

theorem crcShifts_eq_iterate (k : Nat) (c : Word16) : crcShifts k c = crcShift^[k] c := by
  induction k generalizing c with
  | zero => rfl
  | succ k ih => rw [crcShifts, ih, Function.iterate_succ_apply]

/-- Settles O14: the shift is the model's, whose bits are known. -/
theorem crcStepBitByBit : Obligations.CrcStepBitByBit := by
  refine ⟨crcShift, fun c i _ => crcShift_bit c i, fun c b => ?_⟩
  exact crcShifts_eq_iterate 8 (c ^^^ zext16 b)

/-- Each bit of a shift is an exclusive-or of bits of the register. -/
theorem crcShift_xor (c d : Word16) : crcShift (c ^^^ d) = crcShift c ^^^ crcShift d := by
  refine BitVec.eq_of_getLsbD_eq fun i _ => ?_
  simp only [crcShift_bit, BitVec.getLsbD_xor, Bool.and_xor_distrib_right, Bool.xor_assoc, Bool.xor_left_comm]

theorem crcShifts_xor (k : Nat) (c d : Word16) : crcShifts k (c ^^^ d) = crcShifts k c ^^^ crcShifts k d := by
  induction k generalizing c d with
  | zero => rfl
  | succ k ih => rw [crcShifts, crcShift_xor, ih, crcShifts, crcShifts]

theorem zext16_xor (a b : Byte) : zext16 (a ^^^ b) = zext16 a ^^^ zext16 b :=
  BitVec.setWidth_xor

/-- Settles O15: the byte enters by exclusive-or, and the shifts are linear. -/
theorem crcStepIsLinear : Obligations.CrcStepIsLinear := by
  intro c d a b
  have entered : (c ^^^ d) ^^^ zext16 (a ^^^ b) = (c ^^^ zext16 a) ^^^ (d ^^^ zext16 b) := by
    rw [zext16_xor]
    ac_rfl
  rw [crcStep, entered, crcShifts_xor, crcStep, crcStep]

theorem crcShifts_injective (k : Nat) : Function.Injective (crcShifts k) := by
  rw [funext (crcShifts_eq_iterate k)]
  exact crcShift_injective.iterate k

theorem zext16_injective : Function.Injective zext16 := by
  intro a b h
  have low : (zext16 a).setWidth 8 = (zext16 b).setWidth 8 := by rw [h]
  simpa only [zext16, BitVec.setWidth_setWidth_of_le _ (by decide : 8 ≤ 16), BitVec.setWidth_eq] using low

/-- For a fixed byte the step is one-to-one in the register. -/
theorem crcStep_injective_left (b : Byte) : Function.Injective (crcStep · b) := by
  intro c d h
  exact (BitVec.xor_left_inj (zext16 b)).mp (crcShifts_injective 8 h)

/-- For a fixed register the step is one-to-one in the byte. -/
theorem crcStep_injective_right (c : Word16) : Function.Injective (crcStep c) := by
  intro a b h
  exact zext16_injective ((BitVec.xor_right_inj c).mp (crcShifts_injective 8 h))

/-- Over a fixed sequence the register at the end tells the one at the start. -/
theorem crcFrom_injective (s : Bytes) : Function.Injective (crcFrom · s) := by
  induction s with
  | nil => exact fun c d h => h
  | cons b s ih => exact fun c d h => crcStep_injective_left b (ih h)

/-- One byte changed in its place changes the CRC16. -/
theorem crc16_replaced_ne {a b : Byte} (changed : a ≠ b) (front back : Bytes) :
    crc16 (front ++ a :: back) ≠ crc16 (front ++ b :: back) := by
  rw [crc16_append, crc16_append, crcFrom_cons, crcFrom_cons]
  intro same
  exact changed (crcStep_injective_right _ (crcFrom_injective back same))

/-- A byte is not the byte with one of its bits flipped. -/
theorem flipped_ne {k : Nat} (bit : k < 8) (b : Byte) : b ^^^ ((1 : Byte) <<< k) ≠ b := by
  intro same
  have mask : ((1 : Byte) <<< k) = 0#8 := xor_left_eq_self_iff.mp same
  have one : ((1 : Byte) <<< k).getLsbD k = true := by simp [bit]
  rw [mask, BitVec.getLsbD_zero] at one
  cases one

@[simp] theorem flipBit_length (s : Bytes) (i k : Nat) : (flipBit s i k).length = s.length :=
  List.length_set

/-- A byte inside a sequence, with what stands before and behind it. -/
theorem flipBit_eq_append {s : Bytes} {i : Nat} (inside : i < s.length) (k : Nat) :
    flipBit s i k = s.take i ++ (byteAt s i ^^^ ((1 : Byte) <<< k)) :: s.drop (i + 1) :=
  List.set_eq_take_append_cons_drop.trans (if_pos inside)

theorem eq_append_byteAt {s : Bytes} {i : Nat} (inside : i < s.length) :
    s = s.take i ++ byteAt s i :: s.drop (i + 1) := by
  rw [byteAt, List.getD_eq_getElem _ _ inside, ← List.drop_eq_getElem_cons inside, List.take_append_drop]

/-- Settles O16: the flipped byte is another byte in the same place. -/
theorem singleBitChangesCrc16 : Obligations.SingleBitChangesCrc16 := by
  intro s i k inside bit
  have replaced := crc16_replaced_ne (flipped_ne bit (byteAt s i)) (s.take i) (s.drop (i + 1))
  rwa [← flipBit_eq_append inside, ← eq_append_byteAt inside] at replaced

/-- While only zeros are shifted out there is no feedback. -/
theorem crcShifts_of_low_zero {k : Nat} {c : Word16} (zeros : ∀ i < k, c.getLsbD i = false) : crcShifts k c = c >>> k := by
  induction k generalizing c with
  | zero => rfl
  | succ k ih =>
    have first : crcShift c = c >>> 1 := by rw [crcShift, if_neg (Bool.eq_false_iff.mp (zeros 0 k.succ_pos))]
    have others : ∀ i < k, (c >>> 1).getLsbD i = false := by
      intro i below
      rw [BitVec.getLsbD_ushiftRight]
      exact zeros (1 + i) (by omega)
    rw [crcShifts, first, ih others, Nat.add_comm k, BitVec.shiftRight_add]

/-- The register's own low byte cancels, which leaves the high byte. -/
theorem crcStep_lo8 (w : Word16) : crcStep w (lo8 w) = zext16 (hi8 w) := by
  have zeros : ∀ i < 8, (w ^^^ zext16 (lo8 w)).getLsbD i = false := by
    intro i below
    simp [zext16, lo8, below, Nat.lt_trans below (by decide : 8 < 16)]
  rw [crcStep, crcShifts_of_low_zero zeros]
  refine BitVec.eq_of_getLsbD_eq fun i inside => ?_
  obtain low | high := Nat.lt_or_ge i 8
  · simp [zext16, lo8, hi8, low, inside]
  · simp [zext16, lo8, hi8, BitVec.getLsbD_of_ge w (8 + i) (by omega)]

/-- A byte equal to the register clears it. -/
theorem crcStep_self (b : Byte) : crcStep (zext16 b) b = 0 := by
  rw [crcStep, BitVec.xor_self, crcShifts_of_low_zero fun i _ => BitVec.getLsbD_zero]
  rfl

/-- A register that takes in its own two bytes, low byte first, is zero. -/
theorem crcFrom_wordBytes (w : Word16) : crcFrom w (wordBytes w) = 0 := by
  rw [wordBytes, crcFrom_cons, crcStep_lo8, crcFrom_cons, crcStep_self, crcFrom_nil]

/-- Settles O17: the sequence leaves its CRC16 in the register, which then takes in its own bytes. -/
theorem crc16OfCheckedSequenceIsZero : Obligations.Crc16OfCheckedSequenceIsZero := by
  intro s
  exact (crc16_append s (wordBytes (crc16 s))).trans (crcFrom_wordBytes (crc16 s))

end Sys2Proof.Machine
end

section
/-! RUNS OF COMMANDS. What a run of instructions the host issues leaves and answers, command by command; and the CRC register after a
run of feeds (R87, R108, R109). -/

namespace Sys2Proof.Machine

/-- The state a run of instructions leaves. -/
def stateAfterAll (is : List Instr) (s : State) : State :=
  is.foldl (fun s i => stateAfter i s) s

@[simp] theorem stateAfterAll_nil (s : State) : stateAfterAll [] s = s := rfl

@[simp] theorem stateAfterAll_cons (i : Instr) (is : List Instr) (s : State) :
    stateAfterAll (i :: is) s = stateAfterAll is (stateAfter i s) := rfl

theorem stateAfterAll_append (is js : List Instr) (s : State) :
    stateAfterAll (is ++ js) s = stateAfterAll js (stateAfterAll is s) :=
  List.foldl_append

/-- The responses a run of instructions returns. -/
def responsesTo : List Instr → State → List (Option Response)
  | [], _ => []
  | i :: is, s => some (responseTo i s.crc s.rxBuf) :: responsesTo is (stateAfter i s)

@[simp] theorem responsesTo_nil (s : State) : responsesTo [] s = [] := rfl

@[simp] theorem responsesTo_cons (i : Instr) (is : List Instr) (s : State) :
    responsesTo (i :: is) s = some (responseTo i s.crc s.rxBuf) :: responsesTo is (stateAfter i s) := rfl

theorem responsesTo_append (is js : List Instr) (s : State) :
    responsesTo (is ++ js) s = responsesTo is s ++ responsesTo js (stateAfterAll is s) := by
  induction is generalizing s with
  | nil => rfl
  | cons i is ih => rw [List.cons_append, responsesTo_cons, ih, responsesTo_cons, stateAfterAll_cons, List.cons_append]

/-- The first of the commands the host issues runs, with the others still to come. -/
theorem step_issuing_encode (i : Instr) (cs : List Command) (s : State) :
    step (s.issuing (encode i :: cs)) = .next ((stateAfter i s).issuing cs) := by
  have head : (s.issuing (encode i :: cs)).hostQueue = .command (encode i) :: (cs.map HostEvent.command ++ s.hostQueue) := rfl
  rw [step_command head, deliver_legal (decode_encode i), exec_eq_stateAfter]
  rfl

section
variable {is : List Instr} {cs : List Command} {k : Nat} (commands : cs = is.map encode) (count : k = is.length)
include commands count

/-- A step for each command brings the block to the state the instructions leave. -/
theorem runSteps_issuing (s : State) : runSteps k (s.issuing cs) = .next (stateAfterAll is s) := by
  subst commands count
  induction is generalizing s with
  | nil => rfl
  | cons i is ih =>
    rw [List.length_cons, runSteps, List.map_cons, step_issuing_encode]
    exact ih (stateAfter i s)

/-- A step for each command returns the instructions' responses. -/
theorem responses_issuing (s : State) : responses k (s.issuing cs) = responsesTo is s := by
  subst commands count
  induction is generalizing s with
  | nil => rfl
  | cons i is ih =>
    rw [List.length_cons, responses, List.map_cons, step_issuing_encode]
    exact congrArg _ (ih (stateAfter i s))

end

/-- A run of feeds takes the register over the bytes, and sets nothing else but the response. -/
theorem stateAfterAll_crcFeeds (bytes : Bytes) (s : State) :
    ∃ r, stateAfterAll (bytes.map .crcFeed) s = { s with crc := crcFrom s.crc bytes, response := r } := by
  induction bytes generalizing s with
  | nil => exact ⟨s.response, rfl⟩
  | cons b bytes ih => exact ih (stateAfter (.crcFeed b) s)

/-- CRC_READ after a run of feeds answers the register they left. -/
theorem stateAfterAll_crcFeeds_crcRead (bytes : Bytes) (s : State) :
    stateAfterAll (bytes.map .crcFeed ++ [.crcRead]) s =
      { s with crc := crcFrom s.crc bytes, response := some ⟨.ok, some (.value (crcFrom s.crc bytes))⟩ } := by
  obtain ⟨r, fed⟩ := stateAfterAll_crcFeeds bytes s
  rw [stateAfterAll_append, fed]
  rfl

theorem crcFeeds_eq_map_encode (bytes : Bytes) : crcFeeds bytes = (bytes.map Instr.crcFeed).map encode := by
  rw [crcFeeds, List.map_map]
  rfl

/-- Settles O18: the feeds take the register from CRC_INIT, which the command or the reset put there, over the data. -/
theorem crcStreamAgreesWithCrc16 : Obligations.CrcStreamAgreesWithCrc16 := by
  constructor
  · intro s data
    have commands : crcStream data = (.crcInit :: (data.map .crcFeed ++ [.crcRead]) : List Instr).map encode := by
      simp [crcStream]
    rw [runSteps_issuing commands (by simp), stateAfterAll_cons, stateAfterAll_crcFeeds_crcRead]
    rfl
  · intro data
    have commands : crcFeeds data ++ [encode .crcRead] = (data.map .crcFeed ++ [.crcRead] : List Instr).map encode := by
      rw [List.map_append, crcFeeds_eq_map_encode, List.map_singleton]
    rw [runSteps_issuing commands (by simp), stateAfterAll_crcFeeds_crcRead]
    rfl

/-- Settles O19: the feeds go on from the register as it stands, as CRC16 does over a second part. -/
theorem crcCanBeContinued : Obligations.CrcCanBeContinued := by
  intro s a b started
  obtain ⟨r, fed⟩ := stateAfterAll_crcFeeds b s
  refine ⟨_, (runSteps_issuing (crcFeeds_eq_map_encode b) (by simp) s).trans (congrArg _ fed), ?_, rfl, rfl⟩
  rw [crc16_append, ← started]

end Sys2Proof.Machine
end

section
/-! THE ROUND TRIP OF FRAMES. Parsing a built frame returns its fields (R152), an accepted candidate is a built frame (R153), and one
flipped bit in a built frame is caught (R154). -/

namespace Sys2Proof.Machine

section
variable {version flags src dst opcode : Byte} {payload : Bytes}

/-- The fields of a built frame stand where FRAME_PARSE reads them. -/
theorem parsedFields_buildFrame (version flags src dst opcode : Byte) (payload : Bytes) :
    parsedFields (buildFrame version flags src dst opcode payload) =
      ⟨version, flags, src, dst, opcode, lenByte payload.length, payload⟩ := by
  have middle : (parsedFields (buildFrame version flags src dst opcode payload)).payload = payload := by
    rw [parsedFields_payload, buildFrame_length, Nat.add_sub_cancel, take_drop_buildFrame]
  exact congrArg _ middle

/-- A built frame opens with the signature, and its length byte counts what follows it (R60, R61). -/
theorem lengthByte_add_two_buildFrame (fits : payload.length ≤ 247) :
    (byteAt (buildFrame version flags src dst opcode payload) 1).toNat + 2 =
      (buildFrame version flags src dst opcode payload).length := by
  rw [lengthByte_buildFrame fits, buildFrame_length]

/-- A built frame passes the five checks. -/
theorem parseStatus_buildFrame (fits : payload.length ≤ 247) :
    parseStatus (buildFrame version flags src dst opcode payload) = .ok := by
  have enough : 10 ≤ (buildFrame version flags src dst opcode payload).length := by simp
  refine parseStatus_of_all_passed enough rfl (lengthByte_add_two_buildFrame fits) (sentChecksum_buildFrame ..).symm ?_
  rw [payloadLengthByte_buildFrame fits, lengthByte_buildFrame fits, Nat.add_sub_cancel]

/-- FRAME_PARSE accepts a built frame and returns its fields. -/
theorem exec_frameParse_buildFrame (fits : payload.length ≤ 247) (s : State) :
    exec (.frameParse (buildFrame version flags src dst opcode payload)) s = .next { s with
      response := some ⟨.ok, some (.parsed ⟨version, flags, src, dst, opcode, lenByte payload.length, payload⟩)⟩ } := by
  rw [exec_frameParse_of_accepted (parseStatus_buildFrame fits), parsedFields_buildFrame]

/-- Settles O24: the frame is the built one, which is accepted with its own fields. -/
theorem parseInvertsBuild : Obligations.ParseInvertsBuild := by
  intro version flags src dst opcode payload s u fits
  refine ⟨buildFrame version flags src dst opcode payload, _, lenByte payload.length, exec_frameBuild .., ?_,
    lenByte_toNat (by omega), exec_frameParse_buildFrame fits u⟩
  rw [buildResponse_of_le fits]

end

section
variable {c : Bytes}

/-- What an accepted candidate has passed (R141 to R146). -/
theorem parseStatus_eq_ok :
    parseStatus c = .ok ↔ 10 ≤ c.length ∧ byteAt c 0 = Config.sig ∧ (byteAt c 1).toNat + 2 = c.length ∧
      coveredChecksum c = sentChecksum c ∧ (byteAt c 7).toNat = (byteAt c 1).toNat - 8 := by
  constructor
  · intro accepted
    rw [parseStatus_eq] at accepted
    split_ifs at accepted with short unsigned missized missummed disagree
    exact ⟨by omega, not_not.mp unsigned, not_not.mp missized, not_not.mp missummed, not_not.mp disagree⟩
  · rintro ⟨enough, signed, sized, summed, agree⟩
    exact parseStatus_of_all_passed enough signed sized summed agree

/-- What an answer OK of FRAME_PARSE tells: every check passed, and the record holds the fields by position. -/
theorem parseResponse_eq_parsed {pf : ParsedFrame} :
    parseResponse c = ⟨.ok, some (.parsed pf)⟩ ↔ parseStatus c = .ok ∧ pf = parsedFields c := by
  rw [parseResponse_eq]
  constructor
  · intro answered
    obtain ⟨accepted, record⟩ := Response.mk.inj answered
    rw [if_pos accepted] at record
    cases record
    exact ⟨accepted, rfl⟩
  · rintro ⟨accepted, rfl⟩
    rw [accepted, if_pos rfl]

/-- The two bytes of the checksum a candidate carries are its last two. -/
theorem wordBytes_sentChecksum (enough : 2 ≤ c.length) : wordBytes (sentChecksum c) = c.drop (c.length - 2) := by
  have last : c.length - 2 + 1 = c.length - 1 := by omega
  rw [sentChecksum, wordBytes, lo8_wordOfBytes, hi8_wordOfBytes, List.drop_eq_getElem_cons (by omega), last,
    List.drop_eq_getElem_cons (by omega), byteAt, byteAt, List.getD_eq_getElem _ _ (by omega),
    List.getD_eq_getElem _ _ (by omega), Nat.sub_add_cancel (by omega), List.drop_length]

/-- A candidate is its first byte, what its checksum covers, and the checksum it carries. -/
theorem candidate_eq_append (enough : 3 ≤ c.length) :
    c = [byteAt c 0] ++ slice c 1 (c.length - 2) ++ wordBytes (sentChecksum c) := by
  obtain _ | ⟨first, rest⟩ := c
  · cases enough
  · rw [wordBytes_sentChecksum (by omega)]
    have behind : (first :: rest).length - 2 = (rest.length - 2) + 1 := by
      rw [List.length_cons] at enough ⊢
      omega
    rw [behind, slice, Nat.add_sub_cancel]
    exact congrArg (first :: ·) (List.take_append_drop _ rest).symm

/-- A slice that is not empty opens with the byte at its start. -/
theorem slice_eq_cons {i j : Nat} (inside : i < c.length) (nonempty : i < j) :
    slice c i j = byteAt c i :: slice c (i + 1) j := by
  have count : j - i = (j - (i + 1)) + 1 := by omega
  rw [slice, List.drop_eq_getElem_cons inside, count, List.take_succ_cons, byteAt, List.getD_eq_getElem _ _ inside, slice]

/-- A byte is the length byte of its value. -/
theorem lenByte_eq_of_toNat {n : Nat} {b : Byte} (value : b.toNat = n) : lenByte n = b := by
  rw [← value, lenByte, BitVec.ofNat_toNat, BitVec.setWidth_eq]

variable (enough : 10 ≤ c.length) (sized : (byteAt c 1).toNat + 2 = c.length)
  (agree : (byteAt c 7).toNat = (byteAt c 1).toNat - 8)
include enough sized agree

/-- The byte at position 7 of a candidate that passed checks 3 and 5 is the payload's length. -/
theorem payloadLengthByte_eq : (byteAt c 7).toNat = (parsedFields c).payload.length := by
  rw [parsedFields_payload_length]
  omega

/-- What the checksum covers is the body built of the candidate's fields, when the two length bytes tell its size. -/
theorem frameBody_parsedFields :
    frameBody (parsedFields c).version (parsedFields c).flags (parsedFields c).src (parsedFields c).dst (parsedFields c).opcode
      (parsedFields c).payload =
      slice c 1 (c.length - 2) := by
  have count : (byteAt c 7).toNat = (parsedFields c).payload.length := payloadLengthByte_eq enough sized agree
  have lengthByte : lenByte ((parsedFields c).payload.length + 8) = byteAt c 1 := lenByte_eq_of_toNat (by omega)
  have body : slice c 1 (c.length - 2) =
      byteAt c 1 :: byteAt c 2 :: byteAt c 3 :: byteAt c 4 :: byteAt c 5 :: byteAt c 6 :: byteAt c 7 ::
        (parsedFields c).payload := by
    simp (disch := omega) only [slice_eq_cons, Nat.reduceAdd, parsedFields]
  rw [body, ← lengthByte, ← lenByte_eq_of_toNat count]
  rfl

/-- A candidate that passes every check is the frame built of its fields. -/
theorem buildFrame_parsedFields (signed : byteAt c 0 = Config.sig) (summed : coveredChecksum c = sentChecksum c) :
    buildFrame (parsedFields c).version (parsedFields c).flags (parsedFields c).src (parsedFields c).dst (parsedFields c).opcode
      (parsedFields c).payload = c := by
  have checksum : crc16 (slice c 1 (c.length - 2)) = sentChecksum c := summed
  rw [buildFrame, frameBody_parsedFields enough sized agree, checksum, ← signed]
  exact (candidate_eq_append (by omega)).symm

end

/-- Settles O25: the checks leave no byte of the candidate free, so it is the frame built of its fields. -/
theorem acceptedCandidatesAreBuiltFrames : Obligations.AcceptedCandidatesAreBuiltFrames := by
  intro c pf s t u parsed answered
  rw [response_of_exec parsed, Option.some_inj] at answered
  obtain ⟨accepted, rfl⟩ := parseResponse_eq_parsed.mp answered
  obtain ⟨enough, signed, sized, summed, agree⟩ := parseStatus_eq_ok.mp accepted
  have count : (byteAt c 7).toNat = (parsedFields c).payload.length := payloadLengthByte_eq enough sized agree
  have bounded : (byteAt c 1).toNat < 256 := (byteAt c 1).isLt
  have fits : (parsedFields c).payload.length ≤ 247 := by omega
  refine ⟨fits, count, ?_⟩
  rw [exec_frameBuild, buildResponse_of_le fits, buildFrame_parsedFields enough sized agree signed summed]

section
variable {s : Bytes} {i k : Nat}

theorem byteAt_flipBit_of_ne {j : Nat} (elsewhere : j ≠ i) : byteAt (flipBit s i k) j = byteAt s j := by
  rw [byteAt, flipBit, List.getD_eq_getElem?_getD, List.getElem?_set_ne elsewhere.symm, ← List.getD_eq_getElem?_getD, byteAt]

theorem byteAt_flipBit_self (inside : i < s.length) : byteAt (flipBit s i k) i = byteAt s i ^^^ ((1 : Byte) <<< k) := by
  rw [byteAt, flipBit, List.getD_eq_getElem?_getD, List.getElem?_set_self inside, Option.getD_some]

theorem byteAt_flipBit_self_ne (inside : i < s.length) (bit : k < 8) : byteAt (flipBit s i k) i ≠ byteAt s i := by
  rw [byteAt_flipBit_self inside]
  exact flipped_ne bit _

theorem flipBit_ne (inside : i < s.length) (bit : k < 8) : flipBit s i k ≠ s :=
  fun same => byteAt_flipBit_self_ne inside bit (congrArg (byteAt · i) same)

/-- A bit flipped in the first part of a sequence. -/
theorem flipBit_append_left (inside : i < s.length) (back : Bytes) : flipBit (s ++ back) i k = flipBit s i k ++ back := by
  have same : byteAt (s ++ back) i = byteAt s i := List.getD_append _ _ _ _ inside
  rw [flipBit, same, List.set_append_left _ _ inside, flipBit]

/-- A bit flipped in the second part of a sequence. -/
theorem flipBit_append_right (front : Bytes) (beyond : front.length ≤ i) :
    flipBit (front ++ s) i k = front ++ flipBit s (i - front.length) k := by
  have same : byteAt (front ++ s) i = byteAt s (i - front.length) := List.getD_append_right _ _ _ _ beyond
  rw [flipBit, same, List.set_append_right _ _ beyond, flipBit]

end

/-- Two bytes are a word's. -/
theorem exists_wordBytes_eq {s : Bytes} (two : s.length = 2) : ∃ w, wordBytes w = s := by
  obtain ⟨lo, hi, rfl⟩ := List.length_eq_two.mp two
  exact ⟨wordOfBytes lo hi, by rw [wordBytes, lo8_wordOfBytes, hi8_wordOfBytes]⟩

/-- A bit flipped behind the first byte of a checked sequence makes its checksums differ: in the body it changes the one computed
(R111), in the last two bytes the one sent. -/
theorem checksums_differ_of_flipped (first : Byte) (body : Bytes) {i k : Nat} (behind : 1 ≤ i)
    (inside : i < body.length + 3) (bit : k < 8) :
    coveredChecksum (flipBit ([first] ++ body ++ wordBytes (crc16 body)) i k) ≠
      sentChecksum (flipBit ([first] ++ body ++ wordBytes (crc16 body)) i k) := by
  obtain inBody | inChecksum := Nat.lt_or_ge i ([first] ++ body).length
  · have position : i - 1 < body.length := by simp at inBody; omega
    rw [flipBit_append_left inBody, flipBit_append_right [first] behind, coveredChecksum_append_wordBytes,
      sentChecksum_append_wordBytes]
    exact singleBitChangesCrc16 body (i - 1) k position bit
  · have position : i - ([first] ++ body).length < (wordBytes (crc16 body)).length := by simp [wordBytes]; omega
    have changed := flipBit_ne position bit
    rw [flipBit_append_right _ inChecksum]
    obtain ⟨w, hw⟩ := exists_wordBytes_eq (flipBit_length (wordBytes (crc16 body)) (i - ([first] ++ body).length) k)
    rw [← hw] at changed ⊢
    rw [coveredChecksum_append_wordBytes, sentChecksum_append_wordBytes]
    exact fun same => changed (congrArg wordBytes same).symm

/-- The status of a candidate that passed the checks of its bytes 0 and 1, with one bit flipped: byte 0 is the signature, byte 1 the
size, and a change behind them that makes the checksums differ is caught by check 4 (R154). -/
theorem parseStatus_flipBit {c : Bytes} {i k : Nat} (enough : 10 ≤ c.length) (signed : byteAt c 0 = 0xAA#8)
    (sized : (byteAt c 1).toNat + 2 = c.length) (inside : i < c.length) (bit : k < 8)
    (differ : 1 ≤ i → coveredChecksum (flipBit c i k) ≠ sentChecksum (flipBit c i k)) :
    parseStatus (flipBit c i k) =
      if i = 0 then .badSignature else if i = 1 then .lengthMismatch else .checksumMismatch := by
  have len : (flipBit c i k).length = c.length := flipBit_length c i k
  have changed : byteAt (flipBit c i k) i ≠ byteAt c i := byteAt_flipBit_self_ne inside bit
  have kept {j : Nat} (elsewhere : j ≠ i) : byteAt (flipBit c i k) j = byteAt c j := byteAt_flipBit_of_ne elsewhere
  split_ifs with first second
  · subst first
    exact parseStatus_of_badSignature (by omega) (signed ▸ changed)
  · subst second
    refine parseStatus_of_lengthMismatch (by omega) ((kept (by decide)).trans signed) fun resized => changed ?_
    exact BitVec.eq_of_toNat_eq (by omega)
  · have signed' : byteAt (flipBit c i k) 0 = 0xAA#8 := (kept (by omega)).trans signed
    have sized' : (byteAt (flipBit c i k) 1).toNat + 2 = (flipBit c i k).length := by rw [kept (by omega), len, sized]
    exact parseStatus_of_checksumMismatch (by omega) signed' sized' (differ (by omega))

/-- Settles O26: a built frame passed the checks of its bytes 0 and 1, and everything behind them is under the checksum or in it. -/
theorem singleBitErrorsAreCaught : Obligations.SingleBitErrorsAreCaught := by
  intro version flags src dst opcode payload frame s t u i k built answered inside bit
  obtain ⟨fits, rfl⟩ := frame_of_exec_frameBuild built answered
  have len := buildFrame_length version flags src dst opcode payload
  have body := frameBody_length version flags src dst opcode payload
  have differ (behind : 1 ≤ i) := checksums_differ_of_flipped Config.sig (frameBody version flags src dst opcode payload)
    behind (by omega) bit
  have status := parseStatus_flipBit (by omega) rfl (lengthByte_add_two_buildFrame fits) inside bit differ
  exact exec_frameParse_of_rejected status (by split_ifs <;> decide) u

end Sys2Proof.Machine
end

section
/-! THE EXTRACTION LOOP. What it makes of a buffer with noise in front (R172 to R174), of a buffer to which bytes are appended, and of one
that keeps the framer's invariant (R175 to R177). -/

namespace Sys2Proof.Machine

/-- Bytes that are not the signature are dropped when something stands behind them. -/
theorem extract_noise_append {noise kept : Bytes} (unsigned : ∀ x ∈ noise, x ≠ Config.sig) (nonempty : kept ≠ []) :
    extract (noise ++ kept) = extract kept := by
  induction noise with
  | nil => rfl
  | cons first noise ih =>
    obtain ⟨head, tail⟩ := List.forall_mem_cons.mp unsigned
    rw [List.cons_append, extract_drop head (List.append_ne_nil_of_right_ne_nil noise nonempty), ih tail]

/-- A byte behind bytes that are not the signature is all that is kept. -/
theorem extract_noise_concat {noise : Bytes} (unsigned : ∀ x ∈ noise, x ≠ Config.sig) (b : Byte) :
    extract (noise ++ [b]) = ([b], none) :=
  extract_noise_append unsigned (List.cons_ne_nil b [])

/-- Without the signature there is no candidate, and at most one byte is kept (R179). -/
theorem extract_noise {noise : Bytes} (unsigned : ∀ x ∈ noise, x ≠ Config.sig) :
    ∃ left, extract noise = (left, none) ∧ left.length ≤ 1 := by
  induction noise using List.reverseRecOn with
  | nil => exact ⟨[], rfl, by decide⟩
  | append_singleton front b _ =>
    have front_unsigned : ∀ x ∈ front, x ≠ Config.sig := fun x inFront => unsigned x (List.mem_append_left [b] inFront)
    exact ⟨[b], extract_noise_concat front_unsigned b, by simp⟩

section
variable {second : Byte} {rest : Bytes}

/-- A candidate that is not complete waits (R174). -/
theorem extract_incomplete (incomplete : rest.length < second.toNat) :
    extract (Config.sig :: second :: rest) = (Config.sig :: second :: rest, none) := by
  rw [extract_sig, if_pos incomplete]

/-- A candidate that is just complete is the whole buffer (R176). -/
theorem extract_complete (complete : rest.length = second.toNat) :
    extract (Config.sig :: second :: rest) = ([], some (Config.sig :: second :: rest)) := by
  rw [extract_sig, if_neg (by omega), ← complete, List.drop_length, List.take_length]

end

/-- What the loop makes of one byte, or of a buffer that opens with the signature. -/
theorem extract_opened {kept : Bytes} (opened : (∃ b, kept = [b]) ∨ ∃ rest, kept = Config.sig :: rest) :
    extract kept =
      if kept.length < 2 + (byteAt kept 1).toNat then (kept, none)
      else (kept.drop (2 + (byteAt kept 1).toNat), some (kept.take (2 + (byteAt kept 1).toNat))) := by
  have waits {n : Nat} : 1 < 2 + n := by omega
  obtain ⟨b, rfl⟩ | ⟨_ | ⟨second, rest⟩, rfl⟩ := opened
  · exact (if_pos waits).symm
  · exact (if_pos waits).symm
  · have value : (byteAt (Config.sig :: second :: rest) 1).toNat = second.toNat := rfl
    simp [extract, value, Nat.add_comm 2]

/-- What RX_BYTE keeps of the buffer after its append: all from the first signature on, or the new byte where there is none (R173). -/
def keptOf (buf : Bytes) (b : Byte) : Bytes :=
  if Config.sig ∈ buf ++ [b] then (buf ++ [b]).dropWhile (fun x => x ≠ Config.sig) else [b]

/-- The bytes before the first signature go, and the loop continues with what is kept. -/
theorem extract_keptOf (buf : Bytes) (b : Byte) :
    ((∃ x, keptOf buf b = [x]) ∨ ∃ rest, keptOf buf b = Config.sig :: rest) ∧
      extract (buf ++ [b]) = extract (keptOf buf b) := by
  rw [keptOf]
  split
  · next signed =>
    obtain ⟨noise, rest, parts, unsigned⟩ := List.eq_append_cons_of_mem signed
    have noise_ne : ∀ x ∈ noise, x ≠ Config.sig := fun x inNoise same => unsigned (same ▸ inNoise)
    have dropped : (buf ++ [b]).dropWhile (fun x => x ≠ Config.sig) = Config.sig :: rest := by
      rw [parts, List.dropWhile_append_of_pos fun x inNoise => decide_eq_true (noise_ne x inNoise)]
      exact List.dropWhile_cons_of_neg (by simp)
    rw [dropped, parts]
    exact ⟨.inr ⟨rest, rfl⟩, extract_noise_append noise_ne (List.cons_ne_nil _ _)⟩
  · next unsigned =>
    have buf_ne : ∀ x ∈ buf, x ≠ Config.sig := fun x inBuf same => unsigned (same ▸ List.mem_append_left [b] inBuf)
    exact ⟨.inl ⟨b, rfl⟩, extract_noise_append buf_ne (List.cons_ne_nil _ _)⟩

section
variable {s : State} {b : Byte} {left : Bytes}

theorem stateAfter_rxByte_pending (waits : extract (s.rxBuf ++ [b]) = (left, none)) :
    stateAfter (.rxByte b) s = { s with rxBuf := left, response := some ⟨.pending, none⟩ } := by
  simp [stateAfter, crcAfter, rxBufAfter, responseTo, waits]

theorem stateAfter_rxByte_ready {cand : Bytes} (cut : extract (s.rxBuf ++ [b]) = (left, some cand)) :
    stateAfter (.rxByte b) s = { s with rxBuf := left, response := some ⟨.frameReady, some (.candidate cand)⟩ } := by
  simp [stateAfter, crcAfter, rxBufAfter, responseTo, cut]

end

/-- Settles O30: the loop of what is kept is a single comparison with its second byte. -/
theorem rxByteResynchronizesAndExtracts : Obligations.RxByteResynchronizesAndExtracts := by
  intro b s buf kept need
  obtain ⟨opened, drops⟩ := extract_keptOf s.rxBuf b
  have outcome : extract (s.rxBuf ++ [b]) =
      if kept.length < need then (kept, none) else (kept.drop need, some (kept.take need)) :=
    drops.trans (extract_opened opened)
  rw [exec_eq_stateAfter]
  constructor
  · intro short
    rw [stateAfter_rxByte_pending (outcome.trans (if_pos short))]
  · intro enough
    rw [stateAfter_rxByte_ready (outcome.trans (if_neg (Nat.not_lt.mpr enough)))]

/-- The invariant of two bytes and more: the first is the signature and the candidate is not complete. -/
theorem rxInvariant_cons_cons {first second : Byte} {rest : Bytes} :
    rxInvariant (first :: second :: rest) ↔ first = Config.sig ∧ rest.length < second.toNat := by
  have first_eq : byteAt (first :: second :: rest) 0 = first := rfl
  have second_eq : byteAt (first :: second :: rest) 1 = second := rfl
  have size : (first :: second :: rest).length = 2 + rest.length := Nat.add_comm rest.length 2
  rw [rxInvariant, first_eq, second_eq, size, or_iff_right (by omega), Nat.add_lt_add_iff_left]

/-- The loop keeps a buffer that meets the invariant and cuts nothing, or what it was given is a complete candidate, cut out whole. -/
def WaitsOrIsComplete (buf : Bytes) : Prop :=
  (∃ left, extract buf = (left, none) ∧ rxInvariant left) ∨
  (∃ second rest, buf = Config.sig :: second :: rest ∧ rest.length = second.toNat ∧ extract buf = ([], some buf))

theorem waitsOrIsComplete_signed {second : Byte} {rest : Bytes} (fits : rest.length ≤ second.toNat) :
    WaitsOrIsComplete (Config.sig :: second :: rest) := by
  obtain incomplete | complete := Nat.lt_or_eq_of_le fits
  · exact .inl ⟨_, extract_incomplete incomplete, rxInvariant_cons_cons.mpr ⟨rfl, incomplete⟩⟩
  · exact .inr ⟨second, rest, rfl, complete, extract_complete complete⟩

/-- A byte appended under the invariant can at most complete the candidate (R175, R176). -/
theorem waitsOrIsComplete_concat {buf : Bytes} (inv : rxInvariant buf) (b : Byte) : WaitsOrIsComplete (buf ++ [b]) := by
  match buf with
  | [] => exact .inl ⟨[b], rfl, .inl (by simp)⟩
  | [x] =>
    by_cases signed : x = Config.sig
    · rw [signed]
      exact waitsOrIsComplete_signed (Nat.zero_le _)
    · exact .inl ⟨[b], extract_noise_concat (by simpa using signed) b, .inl (by simp)⟩
  | first :: second :: rest =>
    obtain ⟨rfl, incomplete⟩ := rxInvariant_cons_cons.mp inv
    exact waitsOrIsComplete_signed (rest := rest ++ [b]) (by simpa using incomplete)

/-- Every command keeps the invariant. -/
theorem rxInvariant_rxBufAfter {i : Instr} {buf : Bytes} (inv : rxInvariant buf) : rxInvariant (rxBufAfter i buf) := by
  cases i with
  | rxByte b =>
    rw [rxBufAfter]
    obtain ⟨left, waits, inv'⟩ | ⟨second, rest, -, -, cut⟩ := waitsOrIsComplete_concat inv b
    · rw [waits]
      exact inv'
    · rw [cut]
      exact .inl (by simp)
  | rxBegin | rxTimeout => exact .inl (by simp [rxBufAfter])
  | crcInit | crcFeed | crcRead | crcCompute | frameBuild | frameParse | rxIdle => exact inv

/-- Settles O31: idling and an illegal code leave the buffer, the reset input empties it, and every instruction keeps the invariant. -/
theorem everyStepKeepsTheFramerInvariant : Obligations.EveryStepKeepsTheFramerInvariant := by
  intro s t inv next
  obtain ⟨-, rfl⟩ | ⟨rest, -, rfl⟩ | ⟨c, rest, i, -, -, run⟩ | ⟨c, rest, code, -, -, rfl⟩ := step_cases next
  · exact inv
  · exact .inl (by simp)
  · obtain rfl := exec_eq_next.mp run
    exact rxInvariant_rxBufAfter inv
  · exact inv

/-- Settles O32: the buffer is empty after reset. -/
theorem resetMeetsTheFramerInvariant : Obligations.ResetMeetsTheFramerInvariant :=
  .inl (by simp)

/-- Settles O33: the second byte is at most 255, and the buffer is shorter than 2 plus it. -/
theorem framerInvariantBoundsTheBuffer : Obligations.FramerInvariantBoundsTheBuffer := by
  intro s b inv
  have second : (byteAt s.rxBuf 1).toNat < 256 := (byteAt s.rxBuf 1).isLt
  have bound : s.rxBuf.length ≤ 256 := by
    obtain short | ⟨-, incomplete⟩ := inv <;> omega
  exact ⟨bound, by rw [List.length_append, List.length_singleton, Config.rxCap]; omega⟩

/-- Under the invariant, an RX_BYTE that answers FRAME_READY cut the whole buffer out. -/
theorem rxByte_ready_of_invariant {s : State} {b : Byte} (inv : s.Inv)
    (ready : (responseTo (.rxByte b) s.crc s.rxBuf).status = .frameReady) :
    ∃ second rest, s.rxBuf ++ [b] = Config.sig :: second :: rest ∧ rest.length = second.toNat ∧
      stateAfter (.rxByte b) s =
        { s with rxBuf := [], response := some ⟨.frameReady, some (.candidate (s.rxBuf ++ [b]))⟩ } := by
  obtain ⟨left, waits, -⟩ | ⟨second, rest, parts, complete, cut⟩ := waitsOrIsComplete_concat inv b
  · rw [responseTo, waits] at ready
    cases ready
  · exact ⟨second, rest, parts, complete, stateAfter_rxByte_ready cut⟩

/-- Settles O34: the candidate is the appended buffer, whose size its second byte tells. -/
theorem candidateIsTheWholeBuffer : Obligations.CandidateIsTheWholeBuffer := by
  intro s t b cand inv run answered
  have ready : (responseTo (.rxByte b) s.crc s.rxBuf).status = .frameReady := by
    rw [response_of_exec run, Option.some_inj] at answered
    rw [answered]
  obtain ⟨second, rest, parts, complete, after⟩ := rxByte_ready_of_invariant inv ready
  rw [exec_eq_next.mp run, after] at answered ⊢
  cases answered
  have bound : second.toNat < 256 := second.isLt
  have len : (s.rxBuf ++ [b]).length = rest.length + 2 := congrArg List.length parts
  exact ⟨rfl, rfl, by omega, by omega, by rw [parts]; rfl⟩

/-- Settles O37: FRAME_READY leaves an empty buffer behind it, which RX_TIMEOUT then empties again. -/
theorem endedCallLeavesTheBufferEmpty : Obligations.EndedCallLeavesTheBufferEmpty := by
  constructor
  · intro s t b r inv run answered ready
    rw [response_of_exec run, Option.some_inj] at answered
    obtain ⟨second, rest, -, -, after⟩ := rxByte_ready_of_invariant inv (answered ▸ ready)
    rw [exec_eq_next.mp run, after]
    exact ⟨rfl, exec_rxTimeout _⟩
  · intro s t run
    exact rxBuf_of_exec run

end Sys2Proof.Machine
end

section
/-! STREAMS OF BYTES. A run of RX_BYTE is the loop of what was received (R178, R179): while that yields no candidate every byte is
answered PENDING, and the byte that completes one is answered FRAME_READY. -/

namespace Sys2Proof.Machine

/-- A candidate is cut as soon as it is complete, whatever follows it. -/
theorem extract_append_of_cut {buf left cand : Bytes} (cut : extract buf = (left, some cand)) (more : Bytes) :
    extract (buf ++ more) = (left ++ more, some cand) := by
  induction buf using extract.induct with
  | case1 => cases cut
  | case2 b => cases cut
  | case3 first second rest unsigned ih =>
    rw [extract_drop unsigned (List.cons_ne_nil second rest)] at cut
    rw [List.cons_append, extract_drop unsigned (by simp), ih cut]
  | case4 first second rest signed | case5 first second rest signed =>
    obtain rfl := not_not.mp signed
    rw [extract_sig] at cut
    split at cut
    · cases cut
    · next enough =>
      cases cut
      have fits : second.toNat ≤ rest.length := Nat.not_lt.mp enough
      rw [List.cons_append, List.cons_append, extract_sig, if_neg (by rw [List.length_append]; omega),
        List.drop_append_of_le_length fits, List.take_append_of_le_length fits]

/-- While there is no candidate, the loop of what is kept goes on as the loop of everything received. -/
theorem extract_append_of_waiting {buf left : Bytes} (waits : extract buf = (left, none)) (more : Bytes) :
    extract (buf ++ more) = extract (left ++ more) := by
  induction buf using extract.induct with
  | case1 | case2 b =>
    cases waits
    rfl
  | case3 first second rest unsigned ih =>
    rw [extract_drop unsigned (List.cons_ne_nil second rest)] at waits
    rw [List.cons_append, extract_drop unsigned (by simp), ih waits]
  | case4 first second rest signed | case5 first second rest signed =>
    obtain rfl := not_not.mp signed
    rw [extract_sig] at waits
    split at waits <;> cases waits
    rfl

/-- Where everything received yields no candidate, no part of it did. -/
theorem extract_waiting_of_append {buf more left : Bytes} (waits : extract (buf ++ more) = (left, none)) :
    ∃ before, extract buf = (before, none) := by
  match h : extract buf with
  | (before, none) => exact ⟨before, rfl⟩
  | (before, some cand) =>
    rw [extract_append_of_cut h more] at waits
    cases waits

/-- What the loop kept it keeps when it is run again. -/
theorem extract_left {buf left : Bytes} (waits : extract buf = (left, none)) : extract left = (left, none) := by
  have again := extract_append_of_waiting waits []
  rw [List.append_nil, List.append_nil] at again
  exact again.symm.trans waits

/-- The responses PENDING, as many as there are bytes. -/
def allPending (bytes : Bytes) : List (Option Response) :=
  List.replicate bytes.length (some ⟨.pending, none⟩)

/-- A run of RX_BYTE that yields no candidate: every response is PENDING, and nothing but the buffer and the response is set. -/
theorem rxBytes_waiting {bytes : Bytes} {s : State} {left : Bytes} (waits : extract (s.rxBuf ++ bytes) = (left, none))
    (settled : extract s.rxBuf = (s.rxBuf, none)) :
    responsesTo (bytes.map .rxByte) s = allPending bytes ∧
      ∃ r, (r = s.response ∨ r = some ⟨.pending, none⟩) ∧
        stateAfterAll (bytes.map .rxByte) s = { s with rxBuf := left, response := r } := by
  induction bytes generalizing s with
  | nil =>
    rw [List.append_nil, settled] at waits
    cases waits
    exact ⟨rfl, s.response, .inl rfl, rfl⟩
  | cons b bytes ih =>
    rw [List.append_cons] at waits
    obtain ⟨before, waitsHere⟩ := extract_waiting_of_append waits
    have after := stateAfter_rxByte_pending waitsHere
    have answered : some (responseTo (.rxByte b) s.crc s.rxBuf) = some ⟨.pending, none⟩ := congrArg State.response after
    rw [extract_append_of_waiting waitsHere] at waits
    obtain ⟨pending, r, hr, rest⟩ :=
      ih (s := { s with rxBuf := before, response := some ⟨.pending, none⟩ }) waits (extract_left waitsHere)
    rw [List.map_cons, responsesTo_cons, stateAfterAll_cons, after, answered, pending]
    exact ⟨rfl, r, .inr (hr.elim id id), rest⟩

/-- The byte that completes a candidate after a run that yielded none. -/
theorem rxBytes_concat_ready {bytes : Bytes} {b : Byte} {s : State} {waiting left cand : Bytes}
    (waits : extract (s.rxBuf ++ bytes) = (waiting, none)) (settled : extract s.rxBuf = (s.rxBuf, none))
    (cut : extract (waiting ++ [b]) = (left, some cand)) :
    responsesTo ((bytes ++ [b]).map .rxByte) s = allPending bytes ++ [some ⟨.frameReady, some (.candidate cand)⟩] ∧
      stateAfterAll ((bytes ++ [b]).map .rxByte) s =
        { s with rxBuf := left, response := some ⟨.frameReady, some (.candidate cand)⟩ } := by
  obtain ⟨pending, r, -, before⟩ := rxBytes_waiting waits settled
  have last := stateAfter_rxByte_ready (s := { s with rxBuf := waiting, response := r }) cut
  have answered := congrArg State.response last
  rw [List.map_append, responsesTo_append, stateAfterAll_append, pending, before]
  exact ⟨congrArg (allPending bytes ++ [·]) answered, last⟩

theorem rxBytes_eq_map_encode (bytes : Bytes) : rxBytes bytes = (bytes.map Instr.rxByte).map encode := by
  rw [rxBytes, List.map_map]
  rfl

/-- Settles O36: the loop of a stream without the signature yields nothing. -/
theorem noSignatureNoCandidate : Obligations.NoSignatureNoCandidate := by
  intro bytes s unsigned empty
  obtain ⟨left, waits, short⟩ := extract_noise unsigned
  obtain ⟨pending, r, -, after⟩ := rxBytes_waiting (s := s) (bytes := bytes) (left := left) (by rw [empty]; exact waits)
    (by rw [empty]; rfl)
  have count : bytes.length = (bytes.map Instr.rxByte).length := (List.length_map _).symm
  rw [responses_issuing (rxBytes_eq_map_encode bytes) count, runSteps_issuing (rxBytes_eq_map_encode bytes) count, after]
  exact ⟨pending, _, rfl, short, rfl, rfl⟩

/-- A built frame opens with the signature and the length byte, which counts what follows: the last byte among it (R60, R61). -/
theorem exists_buildFrame_eq_append (version flags src dst opcode : Byte) {payload : Bytes} (fits : payload.length ≤ 247) :
    ∃ second rest last, buildFrame version flags src dst opcode payload = Config.sig :: second :: rest ++ [last] ∧
      second.toNat = rest.length + 1 := by
  refine ⟨lenByte (payload.length + 8), [version, flags, src, dst, opcode, lenByte payload.length] ++ payload ++
    [lo8 (crc16 (frameBody version flags src dst opcode payload))],
    hi8 (crc16 (frameBody version flags src dst opcode payload)), ?_, ?_⟩
  · simp [buildFrame_eq_append, wordBytes]
  · rw [lenByte_toNat (by omega)]
    simp

/-- Noise and a built frame: all but the last byte leave the framer waiting for it, and it completes the frame (R178). -/
theorem extract_noise_frame {noise : Bytes} (unsigned : ∀ x ∈ noise, x ≠ Config.sig) (version flags src dst opcode : Byte)
    {payload : Bytes} (fits : payload.length ≤ 247) :
    ∃ front last, buildFrame version flags src dst opcode payload = front ++ [last] ∧
      extract (noise ++ front) = (front, none) ∧
      extract (front ++ [last]) = ([], some (buildFrame version flags src dst opcode payload)) := by
  obtain ⟨second, rest, last, frame, size⟩ := exists_buildFrame_eq_append version flags src dst opcode fits
  refine ⟨Config.sig :: second :: rest, last, frame, ?_, ?_⟩
  · rw [extract_noise_append unsigned (List.cons_ne_nil _ _), extract_incomplete (by omega)]
  · rw [frame]
    exact extract_complete (by simp [size])

/-- Settles O35: the noise is dropped, and the frame's last byte is the one its length byte waits for. -/
theorem framerResynchronizes : Obligations.FramerResynchronizes := by
  intro version flags src dst opcode payload frame noise s u v built answered unsigned empty
  obtain ⟨fits, rfl⟩ := frame_of_exec_frameBuild built answered
  obtain ⟨front, last, parts, waits, cut⟩ := extract_noise_frame unsigned version flags src dst opcode fits
  obtain ⟨responses_eq, after⟩ := rxBytes_concat_ready (s := s) (bytes := noise ++ front) (by rw [empty]; exact waits)
    (by rw [empty]; rfl) cut
  rw [List.append_assoc, ← parts] at responses_eq after
  have count : noise.length + (buildFrame version flags src dst opcode payload).length =
      ((noise ++ buildFrame version flags src dst opcode payload).map Instr.rxByte).length := by simp
  have quiet : (noise ++ front).length = noise.length + (buildFrame version flags src dst opcode payload).length - 1 := by
    rw [parts, List.length_append, List.length_append, List.length_singleton]
    omega
  rw [responses_issuing (rxBytes_eq_map_encode _) count, runSteps_issuing (rxBytes_eq_map_encode _) count, responses_eq, after,
    allPending, quiet, ← empty]
  exact ⟨rfl, rfl⟩

/-- Settles O38: the noise opens a candidate whose second byte, the frame's signature, makes it wait for 172 bytes. -/
theorem noiseSignatureSwallowsTheFrame : Obligations.NoiseSignatureSwallowsTheFrame := by
  intro version flags src dst opcode payload frame s u v built answered short empty
  obtain ⟨fits, rfl⟩ := frame_of_exec_frameBuild built answered
  obtain ⟨second, rest, last, frame, -⟩ := exists_buildFrame_eq_append version flags src dst opcode fits
  have waits : extract (s.rxBuf ++ Config.sig :: buildFrame version flags src dst opcode payload) =
      (Config.sig :: buildFrame version flags src dst opcode payload, none) := by
    have needs : Config.sig.toNat = 170 := rfl
    rw [frame, List.length_append, List.length_cons] at short
    rw [frame, empty]
    exact extract_incomplete (rest := second :: rest ++ [last]) (by rw [needs, List.length_append]; omega)
  obtain ⟨pending, -⟩ := rxBytes_waiting waits (by rw [empty]; rfl)
  have commands : rxBytes (0xAA :: buildFrame version flags src dst opcode payload) ++ [encode .rxTimeout] =
      ((Config.sig :: buildFrame version flags src dst opcode payload).map Instr.rxByte ++ [Instr.rxTimeout]).map encode := by
    rw [List.map_append, ← rxBytes_eq_map_encode]
    rfl
  rw [responses_issuing commands (by simp), responsesTo_append, pending]
  rfl

end Sys2Proof.Machine
end

section
/-! THE HOST'S READ. READ_FRAME and RECV (R87) as runs of instructions. -/

namespace Sys2Proof.Machine

/-- A transaction of an instruction's command completes in the state the instruction leaves. -/
theorem transact_encode (i : Instr) (s : State) : transact (encode i) s = .next (stateAfter i s) := by
  rw [transact_eq_deliver, deliver_legal (decode_encode i), exec_eq_stateAfter]

/-- Only FRAME_READY hands a candidate to the host. -/
theorem candidate?_of_pending {s : State} (pending : s.response = some ⟨.pending, none⟩) : s.candidate? = none := by
  rw [State.candidate?, pending]
  rfl

theorem candidate?_of_ready {s : State} {cand : Bytes} (ready : s.response = some ⟨.frameReady, some (.candidate cand)⟩) :
    s.candidate? = some cand := by
  rw [State.candidate?, ready]
  rfl

/-- RX_FEED goes on behind bytes that are all answered PENDING. -/
theorem rxFeed_append_of_pending {bytes : Bytes} {s : State}
    (pending : responsesTo (bytes.map .rxByte) s = allPending bytes) (more : Bytes) :
    rxFeed (bytes ++ more) s = rxFeed more (stateAfterAll (bytes.map .rxByte) s) := by
  induction bytes generalizing s with
  | nil => rfl
  | cons b bytes ih =>
    obtain ⟨head, tail⟩ := List.cons.inj pending
    have none_here : (stateAfter (.rxByte b) s).candidate? = none := candidate?_of_pending head
    rw [List.cons_append, rxFeed, transact_encode]
    simp only [none_here]
    exact ih tail

/-- RX_FEED stops at the byte that completes a candidate. -/
theorem rxFeed_cons_of_candidate {b : Byte} {s : State} {cand : Bytes}
    (ready : (stateAfter (.rxByte b) s).candidate? = some cand) (more : Bytes) :
    rxFeed (b :: more) s = .next (stateAfter (.rxByte b) s) := by
  rw [rxFeed, transact_encode]
  simp only [ready]

section
variable {bytes : Bytes} {s t : State}

/-- READ_FRAME ends with the candidate where RX_FEED found one. -/
theorem readFrame_of_candidate {cand : Bytes} (fed : rxFeed bytes (stateAfter .rxBegin s) = .next t)
    (ready : t.candidate? = some cand) : readFrame bytes s = .next t := by
  rw [readFrame, transact_encode]
  simp only [fed, ready]

/-- READ_FRAME ends with RX_TIMEOUT where RX_FEED found no candidate. -/
theorem readFrame_of_no_candidate (fed : rxFeed bytes (stateAfter .rxBegin s) = .next t)
    (none_found : t.candidate? = none) : readFrame bytes s = .next (stateAfter .rxTimeout t) := by
  rw [readFrame, transact_encode]
  simp only [fed, none_found, transact_encode]

/-- RECV parses the candidate READ_FRAME found. -/
theorem recv_of_candidate {cand : Bytes} (read : readFrame bytes s = .next t) (ready : t.candidate? = some cand) :
    recv bytes s = exec (.frameParse cand) t := by
  rw [recv, read]
  simp only [ready]
  rw [transact_encode, exec_eq_stateAfter]

end

/-- Settles O49: the feed ends without a candidate, so RX_TIMEOUT follows. -/
theorem readFrameWithoutSignatureFindsNone : Obligations.ReadFrameWithoutSignatureFindsNone := by
  intro bytes s unsigned
  obtain ⟨left, waits, -⟩ := extract_noise unsigned
  obtain ⟨pending, r, hr, after⟩ := rxBytes_waiting (s := stateAfter .rxBegin s) waits rfl
  have fed := rxFeed_append_of_pending pending []
  rw [List.append_nil, after, rxFeed] at fed
  rw [readFrame_of_no_candidate fed]
  · rfl
  · obtain rfl | rfl := hr <;> rfl

/-- Settles O48: the noise is dropped, the frame's last byte completes the candidate, and parsing it inverts the build. -/
theorem recvReturnsTheBuiltFields : Obligations.RecvReturnsTheBuiltFields := by
  intro version flags src dst opcode payload frame noise s u v built answered unsigned
  obtain ⟨fits, rfl⟩ := frame_of_exec_frameBuild built answered
  obtain ⟨front, last, parts, waits, cut⟩ := extract_noise_frame unsigned version flags src dst opcode fits
  obtain ⟨pending, r, -, before⟩ := rxBytes_waiting (s := stateAfter .rxBegin s) (bytes := noise ++ front) waits rfl
  have fed := rxFeed_append_of_pending pending [last]
  have completed := stateAfter_rxByte_ready (s := { stateAfter .rxBegin s with rxBuf := front, response := r }) cut
  have ready := candidate?_of_ready (congrArg State.response completed)
  rw [before, rxFeed_cons_of_candidate ready, List.append_assoc, ← parts] at fed
  rw [recv_of_candidate (readFrame_of_candidate fed ready) ready, exec_frameParse_buildFrame fits, completed]
  rfl

end Sys2Proof.Machine
end

section
/-! THE READ-FRAME CALL UNDER THE CLOCK. Each read leads to one command, and the call ends by T_DEADLINE + T_BYTE (R5, R183, R185, R187;
log entry 9). -/

namespace Sys2Proof.Machine

/-- The instruction a read leads to. -/
def Poll.instr (p : Poll) (timing : HostTiming) : Instr :=
  match p.returned timing with
  | some b => .rxByte b
  | none => .rxIdle

theorem Poll.command_eq_encode (p : Poll) (timing : HostTiming) : p.command timing = encode (p.instr timing) := by
  unfold Poll.command Poll.instr
  cases p.returned timing <;> rfl

variable {timing : HostTiming} {p : Poll} {polls : List Poll} {elapsed : Nat} {s : State}

/-- A read leads to RX_BYTE of the byte it returned, or to RX_IDLE. -/
theorem Poll.instr_cases (p : Poll) (timing : HostTiming) :
    (∃ b, p.returned timing = some b ∧ p.instr timing = .rxByte b) ∨ p.instr timing = .rxIdle := by
  unfold Poll.instr
  cases p.returned timing with
  | none => exact .inr rfl
  | some b => exact .inl ⟨b, rfl, rfl⟩

/-- A read's command leaves the CRC register alone. -/
theorem stateAfter_poll_crc (p : Poll) (timing : HostTiming) (s : State) :
    (stateAfter (p.instr timing) s).crc = s.crc := by
  obtain ⟨b, -, instr⟩ | instr := p.instr_cases timing <;> rw [instr] <;> rfl

section
variable (early : elapsed < timing.deadline)
include early

/-- The call ends with the read that completes a candidate. -/
theorem pollLoop_cons_of_candidate {cand : Bytes} (ready : (stateAfter (p.instr timing) s).candidate? = some cand) :
    pollLoop timing (p :: polls) elapsed s = .next (stateAfter (p.instr timing) s, .ready (elapsed + p.duration timing)) := by
  rw [pollLoop, if_neg (Nat.not_le.mpr early), Poll.command_eq_encode, transact_encode]
  simp only [ready]

/-- The call goes on after a read that completes none. -/
theorem pollLoop_cons_of_no_candidate (none_here : (stateAfter (p.instr timing) s).candidate? = none) :
    pollLoop timing (p :: polls) elapsed s =
      pollLoop timing polls (elapsed + p.duration timing) (stateAfter (p.instr timing) s) := by
  rw [pollLoop, if_neg (Nat.not_le.mpr early), Poll.command_eq_encode, transact_encode]
  simp only [none_here]

/-- With no read left the call waits. -/
theorem pollLoop_nil_of_early : pollLoop timing [] elapsed s = .next (s, .waiting elapsed) := by
  rw [pollLoop, if_neg (Nat.not_le.mpr early)]

end

/-- Under the framer's invariant a read's command answers PENDING and keeps the invariant, or completes a candidate and leaves the
buffer empty (R185). -/
theorem poll_cases (inv : s.Inv) (p : Poll) (timing : HostTiming) :
    ((stateAfter (p.instr timing) s).candidate? = none ∧ (stateAfter (p.instr timing) s).Inv) ∨
    (∃ cand, (stateAfter (p.instr timing) s).response = some ⟨.frameReady, some (.candidate cand)⟩ ∧
      (stateAfter (p.instr timing) s).rxBuf = []) := by
  have inv' : (stateAfter (p.instr timing) s).Inv := rxInvariant_rxBufAfter inv
  obtain ⟨b, -, instr⟩ | instr := p.instr_cases timing <;> rw [instr] at inv' ⊢
  · obtain ⟨left, waits, -⟩ | ⟨second, rest, -, -, cut⟩ := waitsOrIsComplete_concat inv b
    · exact .inl ⟨candidate?_of_pending (by rw [stateAfter_rxByte_pending waits]), inv'⟩
    · rw [stateAfter_rxByte_ready cut]
      exact .inr ⟨_, rfl, rfl⟩
  · exact .inl ⟨candidate?_of_pending rfl, inv'⟩

/-- How a call can stand, where its reads are done at `readsDone`: what the status tells of the time, the buffer and the response. -/
def CallStatus.Holds (timing : HostTiming) (readsDone : Nat) (t : State) : CallStatus → Prop
  | .ready elapsed => elapsed < timing.deadline + timing.byteTimeout ∧ t.rxBuf = [] ∧
      ∃ cand, t.response = some ⟨.frameReady, some (.candidate cand)⟩
  | .timedOut elapsed => timing.deadline ≤ elapsed ∧ elapsed < timing.deadline + timing.byteTimeout ∧ t.rxBuf = [] ∧
      t.response = some ⟨.noFrame, none⟩
  | .waiting elapsed => elapsed < timing.deadline ∧ elapsed = readsDone

/-- The rest of a call comes to a status that holds, and leaves the CRC register and the host's queue alone. -/
def CallEnds (timing : HostTiming) (polls : List Poll) (elapsed : Nat) (s : State) : Prop :=
  ∃ t status, pollLoop timing polls elapsed s = .next (t, status) ∧ t.crc = s.crc ∧ t.hostQueue = s.hostQueue ∧
    status.Holds timing (elapsed + pollTime timing polls) t

/-- Once the deadline has passed the call ends in NO_FRAME. -/
theorem callEnds_of_late (polls : List Poll) (s : State) (late : timing.deadline ≤ elapsed)
    (inTime : elapsed < timing.deadline + timing.byteTimeout) : CallEnds timing polls elapsed s :=
  ⟨_, _, pollLoop_of_deadline_le timing polls elapsed s late, rfl, rfl, late, inTime, rfl, rfl⟩

/-- A read begins before the deadline and takes at most T_BYTE, so the time stays below T_DEADLINE + T_BYTE. -/
theorem callEnds (inv : s.Inv) (inTime : elapsed < timing.deadline + timing.byteTimeout) :
    CallEnds timing polls elapsed s := by
  induction polls generalizing elapsed s with
  | nil =>
    obtain early | late := Nat.lt_or_ge elapsed timing.deadline
    · exact ⟨_, _, pollLoop_nil_of_early early, rfl, rfl, early, rfl⟩
    · exact callEnds_of_late [] s late inTime
  | cons p polls ih =>
    obtain early | late := Nat.lt_or_ge elapsed timing.deadline
    · have bounded := p.duration_le timing
      have inTime' : elapsed + p.duration timing < timing.deadline + timing.byteTimeout := by omega
      obtain ⟨none_here, inv'⟩ | ⟨cand, ready, empty⟩ := poll_cases inv p timing
      · obtain ⟨t, status, run, crc, queue, holds⟩ := ih inv' inTime'
        rw [Nat.add_assoc, ← pollTime_cons] at holds
        exact ⟨t, status, (pollLoop_cons_of_no_candidate early none_here).trans run,
          crc.trans (stateAfter_poll_crc p timing s), queue, holds⟩
      · exact ⟨_, _, pollLoop_cons_of_candidate early (candidate?_of_ready ready), stateAfter_poll_crc p timing s, rfl, inTime',
          empty, cand, ready⟩
    · exact callEnds_of_late (p :: polls) s late inTime

/-- Settles O52: the call opens at time zero with an empty buffer, which meets the framer's invariant. -/
theorem readFrameCallEndsInTime : Obligations.ReadFrameCallEndsInTime := by
  intro timing polls s
  have ordered := timing.ordered
  have ends : CallEnds timing polls 0 (stateAfter .rxBegin s) := callEnds (.inl (Nat.zero_le 1)) (by omega)
  rw [CallEnds, Nat.zero_add] at ends
  obtain ⟨t, status, run, crc, queue, holds⟩ := ends
  exact ⟨t, status, run, crc, queue, by cases status <;> exact holds⟩

/-- A read that does not return the signature leaves noise as noise: its command answers PENDING, and at most one byte is held. -/
theorem poll_noise (silent : p.returned timing ≠ some Config.sig) (unsigned : ∀ x ∈ s.rxBuf, x ≠ Config.sig)
    (short : s.rxBuf.length ≤ 1) :
    ∃ left, (∀ x ∈ left, x ≠ Config.sig) ∧ left.length ≤ 1 ∧
      stateAfter (p.instr timing) s = { s with rxBuf := left, response := some ⟨.pending, none⟩ } := by
  obtain ⟨b, returned, instr⟩ | instr := p.instr_cases timing <;> rw [instr]
  · have b_ne : b ≠ Config.sig := fun same => silent (same ▸ returned)
    exact ⟨[b], by simpa using b_ne, by simp, stateAfter_rxByte_pending (extract_noise_concat unsigned b)⟩
  · exact ⟨s.rxBuf, unsigned, short, rfl⟩

/-- A call that never receives the signature waits until the deadline, and then ends in NO_FRAME. -/
def CallFindsNone (timing : HostTiming) (polls : List Poll) (elapsed : Nat) (s : State) : Prop :=
  (timing.deadline ≤ elapsed + pollTime timing polls →
    ∃ last, pollLoop timing polls elapsed s =
        .next ({ s with rxBuf := [], response := some ⟨.noFrame, none⟩ }, .timedOut last) ∧
      timing.deadline ≤ last ∧ last ≤ timing.deadline + timing.byteTimeout) ∧
  (elapsed + pollTime timing polls < timing.deadline →
    ∃ t, pollLoop timing polls elapsed s = .next (t, .waiting (elapsed + pollTime timing polls)) ∧ t.rxBuf.length ≤ 1)

theorem callFindsNone_of_late (polls : List Poll) (s : State) (late : timing.deadline ≤ elapsed)
    (inTime : elapsed ≤ timing.deadline + timing.byteTimeout) : CallFindsNone timing polls elapsed s :=
  ⟨fun _ => ⟨elapsed, pollLoop_of_deadline_le timing polls elapsed s late, late, inTime⟩, fun _ => by omega⟩

theorem callFindsNone (silent : ∀ p ∈ polls, p.returned timing ≠ some Config.sig)
    (unsigned : ∀ x ∈ s.rxBuf, x ≠ Config.sig) (short : s.rxBuf.length ≤ 1)
    (inTime : elapsed ≤ timing.deadline + timing.byteTimeout) : CallFindsNone timing polls elapsed s := by
  induction polls generalizing elapsed s with
  | nil =>
    obtain early | late := Nat.lt_or_ge elapsed timing.deadline
    · exact ⟨fun late => absurd late (Nat.not_le.mpr early), fun _ => ⟨s, pollLoop_nil_of_early early, short⟩⟩
    · exact callFindsNone_of_late [] s late inTime
  | cons p polls ih =>
    obtain early | late := Nat.lt_or_ge elapsed timing.deadline
    · have bounded := p.duration_le timing
      obtain ⟨head, tail⟩ := List.forall_mem_cons.mp silent
      obtain ⟨left, unsigned', short', after⟩ := poll_noise head unsigned short
      have none_here := candidate?_of_pending (congrArg State.response after)
      have rest : CallFindsNone timing polls (elapsed + p.duration timing) (stateAfter (p.instr timing) s) :=
        ih tail (after ▸ unsigned') (after ▸ short') (by omega)
      rw [CallFindsNone, Nat.add_assoc, ← pollTime_cons, ← pollLoop_cons_of_no_candidate early none_here, after] at rest
      exact rest
    · exact callFindsNone_of_late (p :: polls) s late inTime

/-- Settles O50: the call opens at time zero with an empty buffer, which is noise of no byte. -/
theorem deadlineIsRespected : Obligations.DeadlineIsRespected := by
  intro timing polls s silent
  have outcome : CallFindsNone timing polls 0 (stateAfter .rxBegin s) :=
    callFindsNone silent (List.forall_mem_nil _) (Nat.zero_le 1) (Nat.zero_le _)
  rw [CallFindsNone, Nat.zero_add] at outcome
  obtain ⟨timedOut, waiting⟩ := outcome
  refine ⟨fun late => ?_, waiting⟩
  obtain ⟨last, run, after, within⟩ := timedOut late
  exact ⟨_, last, run, after, within, rfl⟩

end Sys2Proof.Machine
end
